-- ==== Sys2Proof/Word.lean ====
section
/-!
DEFINITION. The word types of the block: 64-bit registers, latches and addresses (00_scope.md R7: XLEN = 64,
ADDR_W = 64) and bytes of system memory (20_memory.md R60).
-/

namespace Sys2Proof

/-- A register of the window, a latch entry or a memory-port address: 64 bits (00_scope.md R7). -/
abbrev Word := BitVec 64

/-- One byte of system memory. -/
abbrev Byte := BitVec 8

end Sys2Proof
end

