-- ==== Sys2Proof/Syntax.lean ====
section
/-!
DEFINITION. The seven commands of 30_encoding.md R92, one constructor per row of the opcode table. A command has no
operand fields: every operand comes from the latch (R90, R93).
-/

namespace Sys2Proof

/-- A legal command (30_encoding.md R92). -/
inductive Instr where
  /-- SQRT64, word 0x1 (41_sqrt.md R141). -/
  | sqrt64
  /-- SQRT128, word 0x2 (41_sqrt.md R142). -/
  | sqrt128
  /-- INVTAB32, word 0x3 (42_invtab.md R165). -/
  | invtab32
  /-- INVTAB64, word 0x4 (42_invtab.md R166). -/
  | invtab64
  /-- CIRCFULL, word 0x5 (43_circle.md R193). -/
  | circfull
  /-- CIRCQUAD, word 0x6 (43_circle.md R194). -/
  | circquad
  /-- DIVSUM, word 0x7 (44_divsum.md R212). -/
  | divsum
deriving DecidableEq, Repr

end Sys2Proof
end

