-- ==== Sys2Proof/WellFormed.lean ====
section
/-!
DEFINITION. Well-formedness. A command has no operand fields (30_encoding.md R90), so every `Instr` is well-formed; what
can be ill-formed is a command WORD, by the two checks of R91 and R94.
-/

namespace Sys2Proof

/-- R91: the RSVD field, bits 63:4, is 0. -/
def rsvdClear (w : Word) : Bool := w >>> 4 == 0#64

/-- R94: the OP field, bits 3:0, is one of 0x1 to 0x7. -/
def opDefined (w : Word) : Bool := w &&& 0xF#64 != 0#64 && (w &&& 0x8#64 == 0#64)

/-- A legal command word (R92, R94): no reserved bit set and a defined OP. -/
def wordWf (w : Word) : Bool := rsvdClear w && opDefined w

/-- Every command is well-formed: it has no operand field to check (R90). -/
def Instr.wf (_ : Instr) : Bool := true

end Sys2Proof
end

