-- ==== Sys2Proof/Decode.lean ====
section
/-!
DEFINITION. The decoder of command words, total on all 2^64 words and rejecting by name, and the encoder, both written
from 30_encoding.md R91 to R94. A command reaches the block as one whole 64-bit write (R96), so the decoder
reads a word and not a list of bytes.
-/

namespace Sys2Proof

/-- Why a command word is illegal (30_encoding.md R94, in the order of 40_command_interface.md R119). -/
inductive DecodeReject where
  /-- Some RSVD bit (63:4) is set. -/
  | reservedBits
  /-- OP = 0x0. -/
  | opZero
  /-- OP in 0x8 .. 0xF. -/
  | opHigh
deriving DecidableEq, Repr

/-- The OP field, bits 3:0 (R91). -/
def opField (w : Word) : Nat := w.toNat % 16

/-- The RSVD field, bits 63:4 (R91). -/
def rsvdField (w : Word) : Nat := w.toNat / 16

/-- The opcode map (R92), and the illegal OP values (R94). -/
def decodeOp (op : Nat) : Except DecodeReject Instr :=
  match op with
  | 0 => .error .opZero
  | 1 => .ok .sqrt64
  | 2 => .ok .sqrt128
  | 3 => .ok .invtab32
  | 4 => .ok .invtab64
  | 5 => .ok .circfull
  | 6 => .ok .circquad
  | 7 => .ok .divsum
  | _ => .error .opHigh

/-- The command a word encodes, or why it is illegal (R92, R94). -/
def decodeWord (w : Word) : Except DecodeReject Instr :=
  if rsvdField w = 0 then decodeOp (opField w) else .error .reservedBits

/-- The command word of a command (R92: exactly `zext_64(OP)`). -/
def encode : Instr → Word
  | .sqrt64   => 0x0000000000000001#64
  | .sqrt128  => 0x0000000000000002#64
  | .invtab32 => 0x0000000000000003#64
  | .invtab64 => 0x0000000000000004#64
  | .circfull => 0x0000000000000005#64
  | .circquad => 0x0000000000000006#64
  | .divsum   => 0x0000000000000007#64

/-- The low `nbits` bits of `w`, the bits above them 0. -/
def tableBits (nbits w : Nat) : Nat := w % 2 ^ nbits

/-- The command the decoder reads from a word given as the opcode table numbers its bits: one 64-bit word, bit 0
the least significant (R11, R90). A number that does not fit 64 bits is no command word. -/
def decodeTableWord (nbits w : Nat) : Option Instr :=
  if tableBits nbits w < 2 ^ 64 then
    match decodeWord (BitVec.ofNat 64 (tableBits nbits w)) with
    | .ok i => some i
    | .error _ => none
  else none

end Sys2Proof
end

