-- ==== Sys2Proof/Machine/Arith.lean ====
section
/-!
DEFINITION. The arithmetic layer, on unbounded numbers (00_scope.md R9, R11): the integer square root, the lattice
counts, the divisor sum and one entry of the inverse recurrence. Each is computed by the form the spec gives
(log entry 22); that the forms equal the defining sets is stated in the obligations.
-/

namespace Sys2Proof.Machine

/-- Settle bits `k-1 .. 0` of the root of `n`, the bits above them being `r`. -/
def isqrtBits (n : Nat) : Nat → Nat → Nat
  | 0, r => r
  | k + 1, r => if (r + 2 ^ k) * (r + 2 ^ k) ≤ n then isqrtBits n k (r + 2 ^ k) else isqrtBits n k r

/-- `isqrt(n)` of 41_sqrt.md R140: the r with r*r <= n < (r+1)*(r+1). The root has at most `log2 n / 2 + 1` bits. -/
def isqrt (n : Nat) : Nat := isqrtBits n (n.log2 / 2 + 1) 0

/-- `acc` plus the sum of `f` over the `cnt` numbers from `x` up. -/
def sumFrom (f : Nat → Nat) : Nat → Nat → Nat → Nat
  | 0, _, acc => acc
  | cnt + 1, x, acc => sumFrom f cnt (x + 1) (acc + f x)

/-- Q(n), the sum over x = 1 .. s of isqrt(n - x*x) with s = isqrt(n) (43_circle.md R192). -/
def circQuadCount (n : Nat) : Nat := sumFrom (fun x => isqrt (n - x * x)) (isqrt n) 1 0

/-- The term of R192's sum for C at x: the y with y*y <= n - x*x, both signs and 0. -/
def circColumn (n : Nat) (x : Int) : Nat := 2 * isqrt (n - x.natAbs * x.natAbs) + 1

/-- C(n), the sum over x = -s .. s of 2 * isqrt(n - x*x) + 1 with s = isqrt(n) (43_circle.md R192). -/
def circFullCount (n : Nat) : Nat :=
  sumFrom (fun j => circColumn n ((j : Int) - (isqrt n : Int))) (2 * isqrt n + 1) 0 0

/-- D(n) = 2 * (sum over i = 1 .. s of n div i) - s*s with s = isqrt(n) (44_divsum.md R211). -/
def divisorSum (n : Nat) : Nat := 2 * sumFrom (fun i => n / i) (isqrt n) 1 0 - isqrt n * isqrt n

/-- The entry of step Wa: `(m - ((m div i) * tmpv) mod m) mod m`, exact (42_invtab.md R162). -/
def invEntry (m i tmpv : Nat) : Nat := (m - m / i * tmpv % m) % m

end Sys2Proof.Machine
end

