-- ==== Sys2Proof/Config.lean ====
section
/-!
DEFINITION. What an implementation fixes, and the values the spec leaves free.

The OPEN parameters of 00_scope.md R7 are the argument of the model: `Params`. They ride in the state as its
field `cfg`, which no step changes (10_state.md R42), so a statement over all states is a statement over all
parameters. The machine after reset takes them from the opaque constant `platform`, of which nothing can be
proved (log entry 1).

The free values have no body either: `freeByte` (60_exceptions.md R236), `freeSeen` (70_reset_and_hazards.md
R276) and `freeLands` (70_reset_and_hazards.md R272), each applied to the draw counter of the state.
-/

namespace Sys2Proof.Config

/-- A region of the bus address space that is no ordinary memory: the platform marks it as a device
(70_reset_and_hazards.md R281), or it does not keep written values (20_memory.md R65). -/
structure Region where
  base : Nat
  size : Nat
deriving DecidableEq, Repr, Inhabited

/-- The parameters of the model (00_scope.md R7, 10_state.md R42). -/
structure Params where
  /-- WIDE128: the widened 128-bit path exists. -/
  wide128 : Bool
  /-- REG_BASE: the bus address of the 0x80-byte register window. -/
  regBase : Word
  /-- IRQ_LINE: the platform interrupt input that irq drives. -/
  irqLine : Nat
  /-- The regions the platform marks as devices. -/
  devices : List Region
  /-- The regions that do not keep written values, such as read-only memory (20_memory.md R65). -/
  unkept : List Region
deriving DecidableEq, Repr, Inhabited

/-- The parameters of the machine after reset. Nothing is known of them (DESIGN CHOICE, log entry 1; safe). -/
opaque platform : Params

/-- FREE VALUE: the byte a failed memory write leaves, for each draw (R236; log entry 6; safe). -/
opaque freeByte : Nat → Byte

/-- FREE VALUE: whether another agent's read, for each draw, sees the running command's write of a table entry,
given by its index (R276, 20_memory.md R69 item 3; log entry 8; safe). -/
opaque freeSeen : Nat → Nat → Bool

/-- FREE VALUE: whether a write in flight at reset lands, for each draw (R272; log entry 7; safe). -/
opaque freeLands : Nat → Bool

end Sys2Proof.Config
end

