-- ==== Sys2Proof/Machine/State.lean ====
section
/-!
DEFINITION. The state of the block and of what stands around it, as plain data: the register window (10_state.md R20),
the hidden engine state (R36), the interrupt output (R37), the reset input (70_reset_and_hazards.md R270), system
memory (R40), the parameters (R42), and the model's own inputs (the coming events, the platform's answer, the
draw counter). INVENTORY.md lists every field with its rule and its reset value.
-/

namespace Sys2Proof.Machine

/-- Where the engine is in the command lifecycle (10_state.md R36, 40_command_interface.md R118). -/
inductive Phase where
  | idle | validate | exec
deriving DecidableEq, Repr

/-- Which step of the table sequence of 42_invtab.md R162 comes next. `ra` is the head of the loop: step Ra while
idx <= n, step END after. DEDUCED, log entry 4. -/
inductive SeqPoint where
  | w1 | ra | wa
deriving DecidableEq, Repr

/-- The fault codes of STATUS.ERRCODE (60_exceptions.md R231). Codes 10 to 15 are never produced, so they are not
here. -/
inductive ErrCode where
  | none | illegalCmd | unsupported | negative | domain | range | align | addrWrap | noncoprime | busError
deriving DecidableEq, Repr

/-- The platform's answer to one engine access (20_memory.md R68, 60_exceptions.md R231 BUS_ERROR). -/
inductive BusReply where
  | ok | error
deriving DecidableEq, Repr

/-- System memory: address and byte pairs in the canonical form of `Memory.wf`. -/
abbrev Memory := List Host.Cell

/-- What can happen next, from outside the block or as the engine's turn (00_scope.md R6). Log entry 2. -/
inductive Event where
  /-- A host register read of `width` bytes at byte offset `off` (30_encoding.md R99, 40_command_interface.md R110). -/
  | hostRead (width off : Nat)
  /-- A host register write of `width` bytes at byte offset `off` (R99, R111). -/
  | hostWrite (width off : Nat) (data : Word)
  /-- The engine's turn; `reply` is the platform's answer if the step accesses memory (R118, 20_memory.md R68). -/
  | engine (reply : BusReply)
  /-- Another memory agent writes `bytes` from `addr` up (70_reset_and_hazards.md R277). -/
  | agentWrite (addr : Word) (bytes : List Byte)
  /-- Another memory agent reads `len` bytes from `addr` up (70_reset_and_hazards.md R276). -/
  | agentRead (addr : Word) (len : Nat)
  /-- The reset input is asserted (70_reset_and_hazards.md R270, R271). -/
  | resetAssert
  /-- The reset input is released (R270). -/
  | resetRelease
deriving DecidableEq, Repr

/-- What stops the machine as a fault. A fault of a COMMAND is no such stop: it is a next state
(60_exceptions.md R234). -/
inductive Fault where
  /-- Raised by an engine access past address 2^64 - 1, which no state that a run reaches makes: the check of
  20_memory.md R67 comes first. Safe: the machine stops. Log entry 14. -/
  | engineAddressBeyondSpace
  /-- Raised by another agent's access past address 2^64 - 1, which does not exist (20_memory.md R67, ADDR_W = 64).
  Safe: the machine stops. Log entry 15. -/
  | agentAddressBeyondSpace
deriving DecidableEq, Repr

/-- What the model refuses, each by its own name. -/
inductive Refusal where
  /-- Raised by an arm of `exec` whose command has no meaning yet: none now. Safe. -/
  | notModelled (mnemonic : String)
  /-- Raised by a host access that is not 8 bytes wide (40_command_interface.md R113). Safe. -/
  | accessWidth
  /-- Raised by a host access whose offset is no multiple of 8 (R113). Safe. -/
  | accessMisaligned
  /-- Raised by a host access outside offsets 0x00 .. 0x7F (R113). Safe. -/
  | accessOutsideWindow
  /-- Raised by a host access while reset is asserted (70_reset_and_hazards.md R270). Safe. -/
  | accessDuringReset
  /-- Raised by the VALIDATE step of a table command whose span overlaps the register window (R281). Safe. -/
  | tableOverWindow
  /-- Raised by the VALIDATE step of a table command whose span overlaps a device region (R281, 20_memory.md R65).
  Safe. -/
  | tableOverDevice
  /-- Raised by the VALIDATE step of a table command whose span overlaps memory that does not keep written values
  (20_memory.md R65). Safe. -/
  | tableOverUnkept
  /-- Raised by another agent's memory access that touches the register window (20_memory.md R65). Safe; log
  entry 15. -/
  | agentOnWindow
  /-- Raised by another agent's memory access that touches a device region (20_memory.md R65). Safe; log entry 15. -/
  | agentOnDevice
  /-- Raised by another agent's memory access that touches memory that does not keep written values (20_memory.md
  R65). Safe; log entry 15. -/
  | agentOnUnkept
deriving DecidableEq, Repr

/-- The machine's state. Fields by rule of 10_state.md unless said otherwise. -/
structure State where
  /-- The parameters (R42); no step changes them. -/
  cfg : Config.Params
  /-- The reset input is asserted (70_reset_and_hazards.md R270). -/
  inReset : Bool
  /-- CTRL.IE (R25). -/
  ie : Bool
  /-- CMD, the last accepted command word (R26). -/
  cmd : Word
  /-- STATUS.BUSY (R28). -/
  busy : Bool
  /-- STATUS.DONE (R29). -/
  done : Bool
  /-- STATUS.ERR (R30). -/
  err : Bool
  /-- STATUS.CMD_OVF (R31). -/
  cmdOvf : Bool
  /-- STATUS.ERRCODE (R30). -/
  errcode : ErrCode
  /-- ARG0 (R32). -/
  arg0 : Word
  /-- ARG1 (R32). -/
  arg1 : Word
  /-- ARG2 (R32). -/
  arg2 : Word
  /-- RES_LO (R33). -/
  resLo : Word
  /-- RES_HI (R33). -/
  resHi : Word
  /-- ERRINFO (R34). -/
  errinfo : Word
  /-- PROGRESS (R35). -/
  progress : Word
  /-- The interrupt output (R37). -/
  irq : Bool
  /-- `phase` (R36). -/
  phase : Phase
  /-- `L.op` (R36). -/
  lop : Word
  /-- `L.a0` (R36). -/
  la0 : Word
  /-- `L.a1` (R36). -/
  la1 : Word
  /-- `L.a2` (R36). -/
  la2 : Word
  /-- `idx` (R36). -/
  idx : Word
  /-- `tmpv` (R36). -/
  tmpv : Word
  /-- The next step of the table sequence (42_invtab.md R162); log entry 4. -/
  seq : SeqPoint
  /-- System memory (R40). -/
  mem : Memory
  /-- System memory without the writes of the running command: what an agent sees that has seen none of them
  (20_memory.md R69 item 3); log entry 8. -/
  memOld : Memory
  /-- The host's scratch value t: what the last host read returned (30_encoding.md R97). -/
  hostT : Word
  /-- What another agent's last memory read returned, lowest address first (model's own; log entry 13). -/
  agentData : List Byte
  /-- The platform's answer to the access of the engine step being taken (model's own input; log entry 5). -/
  bus : BusReply
  /-- The number of free draws made (model's own; log entry 6). -/
  draws : Nat
  /-- The coming events, first first (model's own input; log entry 2). -/
  schedule : List Event
deriving DecidableEq, Repr

/-- The state right after reset (10_state.md R41). The fields R41 does not name are log entries 1 to 5, 8, 13 and
16. -/
def State.reset : State where
  cfg := Config.platform
  inReset := false
  ie := false
  cmd := 0
  busy := false
  done := false
  err := false
  cmdOvf := false
  errcode := .none
  arg0 := 0
  arg1 := 0
  arg2 := 0
  resLo := 0
  resHi := 0
  errinfo := 0
  progress := 0
  irq := false
  phase := .idle
  lop := 0
  la0 := 0
  la1 := 0
  la2 := 0
  idx := 0
  tmpv := 0
  seq := .w1
  mem := []
  memOld := []
  hostT := 0
  agentData := []
  bus := .ok
  draws := 0
  schedule := []

/-- The three outcomes of one step of this machine. -/
abbrev Result := Host.Outcome State Fault Refusal

end Sys2Proof.Machine
end

