-- ==== Sys2Proof/Machine/Flags.lean ====
section
/-!
DEFINITION. STATUS, its write-one-to-clear bits, the error codes, CAP and the interrupt line. The block has no arithmetic
flags (10_state.md R38).
-/

namespace Sys2Proof.Machine

/-- The number of a fault code in STATUS.ERRCODE (60_exceptions.md R231). -/
def ErrCode.code : ErrCode → Nat
  | .none => 0
  | .illegalCmd => 1
  | .unsupported => 2
  | .negative => 3
  | .domain => 4
  | .range => 5
  | .align => 6
  | .addrWrap => 7
  | .noncoprime => 8
  | .busError => 9

/-- A flag as a number. -/
def bit (b : Bool) : Nat := if b then 1 else 0

/-- STATUS as software reads it: BUSY bit 0, DONE bit 1, ERR bit 2, CMD_OVF bit 3, ERRCODE bits 11:8, the rest 0
(10_state.md R27, 40_command_interface.md R110). -/
def statusWord (s : State) : Word :=
  BitVec.ofNat 64 (s.errcode.code * 2 ^ 8 + bit s.cmdOvf * 8 + bit s.err * 4 + bit s.done * 2 + bit s.busy)

/-- A host write of `v` to STATUS: W1C on bits 1, 2 and 3, nothing else (10_state.md R27). -/
def clearStatus (v : Word) (s : State) : State :=
  { s with
    done := s.done && !v.getLsbD 1
    err := s.err && !v.getLsbD 2
    cmdOvf := s.cmdOvf && !v.getLsbD 3 }

/-- CAP: WIDE128 in bit 0, INVTAB64 = 1 in bit 1, VERSION = 0x01 in bits 15:8 (10_state.md R24). -/
def capWord (s : State) : Word := BitVec.ofNat 64 (0x102 + bit s.cfg.wide128)

/-- irq = STATUS.DONE AND CTRL.IE (10_state.md R37). -/
def irqLevel (s : State) : Bool := s.done && s.ie

/-- Evaluate the interrupt output again (R37). -/
def refreshIrq (s : State) : State := { s with irq := irqLevel s }

/-- The platform input the block drives, and the level it drives on it (60_exceptions.md R238). -/
def irqOutput (s : State) : Nat × Bool := (s.cfg.irqLine, s.irq)

end Sys2Proof.Machine
end

