-- ==== Sys2Proof/Machine/Memory.lean ====
section
/-!
DEFINITION. System memory: one byte per address, little-endian wider accesses (20_memory.md R60), the canonical form.
-/

namespace Sys2Proof.Machine

/-- What an unlisted address reads as. The spec gives no power-on contents (10_state.md R41: the block does not reset
memory). DESIGN CHOICE, log entry 3; unsafe only for a claim that starts from `State.reset`'s memory. -/
def unlistedByte : Byte := 0#8

/-- The byte at address `a`. -/
def Memory.readByte : Memory → Nat → Byte
  | [], _ => unlistedByte
  | (k, v) :: rest, a => if a = k then v else Memory.readByte rest a

/-- Store byte `b` at address `a`, keeping the canonical form: storing what an unlisted address reads as removes
the entry. -/
def Memory.writeByte : Memory → Nat → Byte → Memory
  | [], a, b => if b = unlistedByte then [] else [(a, b)]
  | (k, v) :: rest, a, b =>
    if a < k then
      if b = unlistedByte then (k, v) :: rest else (a, b) :: (k, v) :: rest
    else if a = k then
      if b = unlistedByte then rest else (a, b) :: rest
    else (k, v) :: Memory.writeByte rest a b

/-- The canonical form: addresses strictly rising and inside the 64-bit space (10_state.md R40), no entry equal to
what an unlisted address reads as. -/
def Memory.wf : Memory → Bool
  | [] => true
  | (k, v) :: rest =>
    decide (k < 2 ^ 64) && decide (v ≠ unlistedByte) && rest.all (fun c => decide (k < c.1)) && Memory.wf rest

/-- The `n` bytes of `v`, least significant first: byte k is `v[8k+7:8k]` (20_memory.md R60). -/
def leBytes : Nat → Nat → List Byte
  | 0, _ => []
  | n + 1, v => BitVec.ofNat 8 v :: leBytes n (v / 256)

/-- Store a list of bytes from address `a` up. -/
def Memory.writeBytes : Memory → Nat → List Byte → Memory
  | m, _, [] => m
  | m, a, b :: bs => Memory.writeBytes (m.writeByte a b) (a + 1) bs

/-- `MemWrite(addr, n, v)` without its bus answer: `byte[addr + k] <- v[8k+7:8k]` (20_memory.md R60). -/
def Memory.writeLE (m : Memory) (a n v : Nat) : Memory := m.writeBytes a (leBytes n v)

/-- `MemRead(addr, n)` without its bus answer: the sum of `byte[addr + k] * 2^(8k)` (20_memory.md R60). -/
def Memory.readLE (m : Memory) : Nat → Nat → Nat
  | _, 0 => 0
  | a, n + 1 => (m.readByte a).toNat + 256 * Memory.readLE m (a + 1) n

/-- The `n` bytes from address `a` up, lowest address first. -/
def Memory.readBytes (m : Memory) (a n : Nat) : List Byte := (List.range n).map fun k => m.readByte (a + k)

end Sys2Proof.Machine
end

