-- ==== Sys2Proof/Machine/Operands.lean ====
section
/-!
DEFINITION. How commands read their operands from the latch (30_encoding.md R93), the ceilings (00_scope.md R8), the
table's addresses (42_invtab.md R160), the slots of the register window (10_state.md R20).
-/

namespace Sys2Proof.Machine

/-- `sval(v)`: the 64-bit two's complement value (00_scope.md R11). -/
def sval (v : Word) : Int := if v.toNat < 2 ^ 63 then (v.toNat : Int) else (v.toNat : Int) - 2 ^ 64

/-- SQRT128's operand L.a1 : L.a0 (R93, R11). -/
def wideOperand (s : State) : Nat := s.la1.toNat * 2 ^ 64 + s.la0.toNat

/-- The operand n = sval(L.a0) of a command whose checks have passed; a negative one, which no run brings to EXEC,
reads as 0 (log entry 18). -/
def opN (s : State) : Nat := (sval s.la0).toNat

/-- The modulus m = sval(L.a1) of a table command whose checks have passed (log entry 18 as for n). -/
def opM (s : State) : Nat := (sval s.la1).toNat

/-- CEIL_CIRC64 (R8). -/
def ceilCirc64 : Nat := 2 ^ 61

/-- CEIL_DIV64 (R8). -/
def ceilDiv64 : Nat := 2 ^ 57

/-- The element width of a table command: B = 4 or B = 8 (R7). -/
inductive ElemWidth where
  | w4 | w8
deriving DecidableEq, Repr

/-- B, in bytes. -/
def ElemWidth.bytes : ElemWidth → Nat
  | .w4 => 4
  | .w8 => 8

/-- B of a table command; the other commands touch no memory (42_invtab.md R165, R166). -/
def tableWidth : Instr → Option ElemWidth
  | .invtab32 => some .w4
  | .invtab64 => some .w8
  | .sqrt64 | .sqrt128 | .circfull | .circquad | .divsum => none

/-- MMAX (42_invtab.md R161). -/
def mMax (b : ElemWidth) (wide128 : Bool) : Nat :=
  match b, wide128 with
  | .w4, _ => 2 ^ 31 - 1
  | .w8, true => 2 ^ 63 - 1
  | .w8, false => 2 ^ 32 - 1

/-- addr(i) = BASE + i*B, as an unbounded number (42_invtab.md R160). -/
def entryAddr (b : ElemWidth) (s : State) (i : Nat) : Nat := s.la2.toNat + i * b.bytes

/-- TABLE_END = BASE + (n + 1)*B - 1, in ℤ (20_memory.md R67). -/
def tableEnd (b : ElemWidth) (s : State) : Int := s.la2.toNat + (sval s.la0 + 1) * b.bytes - 1

/-- The slots of the window (10_state.md R20). -/
inductive Slot where
  | cap | ctrl | cmd | status | arg0 | arg1 | arg2 | resLo | resHi | errinfo | progress | reserved
deriving DecidableEq, Repr

/-- The slot at a byte offset of the window: `off[6:3]` selects it (30_encoding.md R99, 10_state.md R20). -/
def slotOf (off : Nat) : Slot :=
  match off / 8 with
  | 0 => .cap
  | 1 => .ctrl
  | 2 => .cmd
  | 3 => .status
  | 4 => .arg0
  | 5 => .arg1
  | 6 => .arg2
  | 7 => .resLo
  | 8 => .resHi
  | 9 => .errinfo
  | 10 => .progress
  | _ => .reserved

/-- Two closed address intervals meet. -/
def overlaps (lo hi lo' hi' : Int) : Bool := decide (lo ≤ hi') && decide (lo' ≤ hi)

/-- The interval [lo, hi] meets the register window [REG_BASE, REG_BASE + 0x7F] (70_reset_and_hazards.md R281). -/
def onWindow (cfg : Config.Params) (lo hi : Int) : Bool := overlaps lo hi cfg.regBase.toNat (cfg.regBase.toNat + 0x7F)

/-- The interval [lo, hi] meets one of these regions: the devices (R281), or the memory that does not keep written
values (20_memory.md R65). -/
def onRegion (regions : List Config.Region) (lo hi : Int) : Bool :=
  regions.any fun r => decide (0 < r.size) && overlaps lo hi r.base ((r.base : Int) + r.size - 1)

end Sys2Proof.Machine
end

