-- ==== Sys2Proof/Machine/Ops.lean ====
section
/-!
DEFINITION. The shared operations of the command lifecycle: accept (40_command_interface.md R114), complete (R121),
raise Fault (60_exceptions.md R234, the block's only way of taking an exception; nothing returns from one, R237), the
VALIDATE step (R119), and the memory port (20_memory.md R60, R68).
-/

namespace Sys2Proof.Machine

/-- `accept(v)` (R114). `memOld` starts as memory stands: the new command has issued no write yet. -/
def accept (v : Word) (s : State) : State :=
  { s with
    cmd := v
    lop := v
    la0 := s.arg0
    la1 := s.arg1
    la2 := s.arg2
    idx := 0
    busy := true
    done := false
    err := false
    errcode := .none
    errinfo := 0
    progress := 0
    phase := .validate
    memOld := s.mem }

/-- `complete(res)` (R121): RES_HI:RES_LO <- res, and the command ends. -/
def complete (res : Nat) (s : State) : State :=
  { s with
    resLo := BitVec.ofNat 64 res
    resHi := BitVec.ofNat 64 (res / 2 ^ 64)
    err := false
    errcode := .none
    busy := false
    done := true
    phase := .idle
    irq := s.ie }

/-- `raise Fault(code, info)` (60_exceptions.md R234): the fault record is written and the command ends. -/
def raiseFault (code : ErrCode) (info : Word) (s : State) : State :=
  { s with
    err := true
    errcode := code
    errinfo := info
    busy := false
    done := true
    phase := .idle
    irq := s.ie }

/-- The successful end of VALIDATE: `phase <- EXEC` (R119). -/
def enterExec (s : State) : State := { s with phase := .exec }

/-- A fault a check reports: its code and its info word. -/
abbrev FaultReport := ErrCode × Word

/-- The VALIDATE step of a command whose operand check reported `report` (R119). -/
def validateWith (report : Option FaultReport) (s : State) : State :=
  match report with
  | some (code, info) => raiseFault code info s
  | none => enterExec s

/-- One engine step of a command whose EXEC phase is one step (R118, R120): VALIDATE with its check, EXEC with its
result, no step when IDLE. -/
def oneStepCommand (check : State → Option FaultReport) (result : State → Nat) (s : State) : Result :=
  match s.phase with
  | .idle => .next s
  | .validate => .next (validateWith (check s) s)
  | .exec => .next (complete (result s) s)

/-- `MemWrite(addr, B, v)` answered without error. -/
def putEntry (b : ElemWidth) (addr v : Nat) (s : State) : State := { s with mem := s.mem.writeLE addr b.bytes v }

/-- The free bytes of the next `n` draws. -/
def drawnBytes (draws n : Nat) : List Byte := (List.range n).map fun k => Config.freeByte (draws + k)

/-- What a write of B bytes that ended in a bus error leaves: unspecified bytes, drawn freely (60_exceptions.md R236;
log entry 6). -/
def spoilEntry (b : ElemWidth) (addr : Nat) (s : State) : State :=
  { s with
    mem := s.mem.writeBytes addr (drawnBytes s.draws b.bytes)
    draws := s.draws + b.bytes }

/-- The access of B bytes at `addr` lies inside the 64-bit bus address space (ADDR_W = 64, R7). -/
def inSpace (b : ElemWidth) (addr : Nat) : Bool := decide (addr + b.bytes ≤ 2 ^ 64)

/-- An engine step that is one write: on a bus error, BUS_ERROR with the address (60_exceptions.md R231, R232, R236);
else the step goes on with `next`. -/
def portWrite (b : ElemWidth) (addr v : Nat) (next : State → State) (s : State) : Result :=
  if inSpace b addr then
    match s.bus with
    | .ok => .next (next (putEntry b addr v s))
    | .error => .next (raiseFault .busError (BitVec.ofNat 64 addr) (spoilEntry b addr s))
  else .fault .engineAddressBeyondSpace

/-- An engine step that is one read: on a bus error, BUS_ERROR with the address and memory as it was
(60_exceptions.md R236); else the step goes on with what was read. -/
def portRead (b : ElemWidth) (addr : Nat) (next : Nat → State → State) (s : State) : Result :=
  if inSpace b addr then
    match s.bus with
    | .ok => .next (next (s.mem.readLE addr b.bytes) s)
    | .error => .next (raiseFault .busError (BitVec.ofNat 64 addr) s)
  else .fault .engineAddressBeyondSpace

end Sys2Proof.Machine
end

