-- ==== Sys2Proof/Machine/Circle.lean ====
section
/-!
DEFINITION. CIRCFULL and CIRCQUAD (43_circle.md).
-/

namespace Sys2Proof.Machine

/-- `check_CIRC()` (R197). -/
def checkCirc (s : State) : Option FaultReport :=
  if sval s.la0 < 0 then some (.negative, s.la0)
  else if sval s.la0 > ceilCirc64 ∧ s.cfg.wide128 = false then some (.range, s.la0)
  else none

/-- One engine step of CIRCFULL: `complete(C(sval(L.a0)))` (R193). -/
def execCircfull (s : State) : Result := oneStepCommand checkCirc (fun s => circFullCount (opN s)) s

/-- One engine step of CIRCQUAD: `complete(Q(sval(L.a0)))` (R194). -/
def execCircquad (s : State) : Result := oneStepCommand checkCirc (fun s => circQuadCount (opN s)) s

end Sys2Proof.Machine
end

