-- ==== Sys2Proof/Machine/Divsum.lean ====
section
/-!
DEFINITION. DIVSUM (44_divsum.md).
-/

namespace Sys2Proof.Machine

/-- `check_DIVSUM()` (R213); n = 0 is accepted. -/
def checkDivsum (s : State) : Option FaultReport :=
  if sval s.la0 < 0 then some (.negative, s.la0)
  else if sval s.la0 > ceilDiv64 ∧ s.cfg.wide128 = false then some (.range, s.la0)
  else none

/-- One engine step of DIVSUM: `complete(D(sval(L.a0)))` (R212). -/
def execDivsum (s : State) : Result := oneStepCommand checkDivsum (fun s => divisorSum (opN s)) s

end Sys2Proof.Machine
end

