-- ==== Sys2Proof/Machine/Invtab.lean ====
section
/-!
DEFINITION. INVTAB32 and INVTAB64 (42_invtab.md): the operand checks of R161, the step sequence of R162, the refused
placements of 70_reset_and_hazards.md R281. B is the element width.
-/

namespace Sys2Proof.Machine

/-- `check_INVTAB(B)`, in priority order (R161, 60_exceptions.md R235). -/
def checkInvtab (b : ElemWidth) (s : State) : Option FaultReport :=
  if sval s.la0 < 0 then some (.negative, s.la0)
  else if sval s.la1 < 0 then some (.negative, s.la1)
  else if sval s.la0 = 0 then some (.domain, s.la0)
  else if sval s.la1 < 2 then some (.domain, s.la1)
  else if sval s.la1 > mMax b s.cfg.wide128 then some (.range, s.la1)
  else if s.la2.toNat % b.bytes ≠ 0 then some (.align, s.la2)
  else if tableEnd b s > 2 ^ 64 - 1 then some (.addrWrap, s.la2)
  else none

/-- The refusal of a table that does not lie in ordinary memory: over the window, over a device (R281), or over memory
that does not keep written values (20_memory.md R65); log entry 12 says that it comes after the checks of R161. -/
def tableRefusal (b : ElemWidth) (s : State) : Option Refusal :=
  if onWindow s.cfg s.la2.toNat (tableEnd b s) then some .tableOverWindow
  else if onRegion s.cfg.devices s.la2.toNat (tableEnd b s) then some .tableOverDevice
  else if onRegion s.cfg.unkept s.la2.toNat (tableEnd b s) then some .tableOverUnkept
  else none

/-- The successful end of `check_INVTAB`: `idx <- 1`, and EXEC starts at step W1. -/
def startTable (s : State) : State := { s with phase := .exec, idx := 1, seq := .w1 }

/-- The VALIDATE step of a table command. -/
def validateInvtab (b : ElemWidth) (s : State) : Result :=
  match checkInvtab b s with
  | some (code, info) => .next (raiseFault code info s)
  | none =>
    match tableRefusal b s with
    | some r => .refused r
    | none => .next (startTable s)

/-- After step W1's write: `PROGRESS <- 1`, `idx <- 2`. -/
def seedWritten (s : State) : State := { s with progress := 1, idx := 2, seq := .ra }

/-- Step W1: `MemWrite(BASE + 1*B, B, 1)`. -/
def stepW1 (b : ElemWidth) (s : State) : Result := portWrite b (entryAddr b s 1) 1 seedWritten s

/-- After step Ra's read: `tmpv <- MemRead(...)`. -/
def entryRead (v : Nat) (s : State) : State := { s with tmpv := BitVec.ofNat 64 v, seq := .wa }

/-- Step Ra at i = idx: NONCOPRIME(i) if `m mod i = 0`, before any access; else read entry `m mod i` (R163, R164). -/
def stepRa (b : ElemWidth) (s : State) : Result :=
  if opM s % s.idx.toNat = 0 then .next (raiseFault .noncoprime s.idx s)
  else portRead b (entryAddr b s (opM s % s.idx.toNat)) entryRead s

/-- The value of step Wa: w of R162 from tmpv. -/
def entryValue (s : State) : Nat := invEntry (opM s) s.idx.toNat s.tmpv.toNat

/-- After step Wa's write: `PROGRESS <- i`, `idx <- i + 1`. -/
def entryWritten (s : State) : State := { s with progress := s.idx, idx := s.idx + 1, seq := .ra }

/-- Step Wa at i = idx: `MemWrite(BASE + i*B, B, w)`. -/
def stepWa (b : ElemWidth) (s : State) : Result :=
  portWrite b (entryAddr b s s.idx.toNat) (entryValue s) entryWritten s

/-- The next EXEC step of a table command (R162): W1, Ra, Wa, or END = `complete(n)` once idx > n. -/
def tableStep (b : ElemWidth) (s : State) : Result :=
  match s.seq with
  | .w1 => stepW1 b s
  | .ra => if s.idx.toNat ≤ opN s then stepRa b s else .next (complete (opN s) s)
  | .wa => stepWa b s

/-- One engine step of a table command with element width B. -/
def tableCommand (b : ElemWidth) (s : State) : Result :=
  match s.phase with
  | .idle => .next s
  | .validate => validateInvtab b s
  | .exec => tableStep b s

/-- One engine step of INVTAB32 (R165). -/
def execInvtab32 (s : State) : Result := tableCommand .w4 s

/-- One engine step of INVTAB64 (R166). -/
def execInvtab64 (s : State) : Result := tableCommand .w8 s

/-- The write the engine's next EXEC step would make: its address and value (R162). -/
def pendingWrite (b : ElemWidth) (s : State) : Option (Nat × Nat) :=
  match s.seq with
  | .w1 => some (entryAddr b s 1, 1)
  | .ra => none
  | .wa => some (entryAddr b s s.idx.toNat, entryValue s)

end Sys2Proof.Machine
end

