-- ==== Sys2Proof/Machine/Sqrt.lean ====
section
/-!
DEFINITION. SQRT64 and SQRT128 (41_sqrt.md).
-/

namespace Sys2Proof.Machine

/-- `check_SQRT64()`: every 64-bit value is in range (R141). -/
def checkSqrt64 (_ : State) : Option FaultReport := none

/-- UNSUPPORTED when WIDE128 = 0 (40_command_interface.md R119, 30_encoding.md R95); no operand check (R142). -/
def checkSqrt128 (s : State) : Option FaultReport := if s.cfg.wide128 then none else some (.unsupported, s.lop)

/-- One engine step of SQRT64: `complete(isqrt(L.a0))` (R141). -/
def execSqrt64 (s : State) : Result := oneStepCommand checkSqrt64 (fun s => isqrt s.la0.toNat) s

/-- One engine step of SQRT128: `complete(isqrt(L.a1 * 2^64 + L.a0))` (R142). -/
def execSqrt128 (s : State) : Result := oneStepCommand checkSqrt128 (fun s => isqrt (wideOperand s)) s

end Sys2Proof.Machine
end

