-- ==== Sys2Proof/Machine/Dispatch.lean ====
section
/-! DEFINITION. One engine step of each command (40_command_interface.md R118 to R120), one arm per constructor. -/

namespace Sys2Proof.Machine

def exec (i : Instr) (s : State) : Host.Outcome State Fault Refusal :=
  match i with
  | .sqrt64 => Sys2Proof.Machine.execSqrt64 s
  | .sqrt128 => Sys2Proof.Machine.execSqrt128 s
  | .invtab32 => Sys2Proof.Machine.execInvtab32 s
  | .invtab64 => Sys2Proof.Machine.execInvtab64 s
  | .circfull => Sys2Proof.Machine.execCircfull s
  | .circquad => Sys2Proof.Machine.execCircquad s
  | .divsum => Sys2Proof.Machine.execDivsum s

end Sys2Proof.Machine
end

