-- ==== Sys2Proof/Machine/Host.lean ====
section
/-!
DEFINITION. The host's two operations on the register window: RD (40_command_interface.md R110) and WR (R111).
-/

namespace Sys2Proof.Machine

/-- Why a host access has no meaning (R113), or none. -/
def accessRefusal (width off : Nat) : Option Refusal :=
  if width ≠ 8 then some .accessWidth
  else if off % 8 ≠ 0 then some .accessMisaligned
  else if off > 0x7F then some .accessOutsideWindow
  else none

/-- What RD returns from a slot (R110; reserved slots and bits read 0, 10_state.md R23). -/
def readSlot (slot : Slot) (s : State) : Word :=
  match slot with
  | .cap => capWord s
  | .ctrl => BitVec.ofNat 64 (bit s.ie)
  | .cmd => s.cmd
  | .status => statusWord s
  | .arg0 => s.arg0
  | .arg1 => s.arg1
  | .arg2 => s.arg2
  | .resLo => s.resLo
  | .resHi => s.resHi
  | .errinfo => s.errinfo
  | .progress => s.progress
  | .reserved => 0

/-- A write to CMD: accepted when BUSY = 0 (R114), dropped with CMD_OVF <- 1 when BUSY = 1 (R115). -/
def writeCmd (v : Word) (s : State) : State := if s.busy then { s with cmdOvf := true } else accept v s

/-- What WR does to a slot (R111), before irq is evaluated again. -/
def writeSlot (slot : Slot) (v : Word) (s : State) : State :=
  match slot with
  | .ctrl => { s with ie := v.getLsbD 0 }
  | .cmd => writeCmd v s
  | .status => clearStatus v s
  | .arg0 => { s with arg0 := v }
  | .arg1 => { s with arg1 := v }
  | .arg2 => { s with arg2 := v }
  | .cap | .resLo | .resHi | .errinfo | .progress | .reserved => s

/-- The checks of a host access (R113, 70_reset_and_hazards.md R270), then its effect. -/
def hostAccess (width off : Nat) (effect : Slot → State → State) (s : State) : Result :=
  if s.inReset then .refused .accessDuringReset
  else
    match accessRefusal width off with
    | some r => .refused r
    | none => .next (effect (slotOf off) s)

/-- RD(off): the value read goes to the host's t (R110, 30_encoding.md R97). -/
def hostRead (width off : Nat) (s : State) : Result :=
  hostAccess width off (fun slot s => { s with hostT := readSlot slot s }) s

/-- WR(off, v), with `irq <- DONE AND CTRL.IE` at its end (R111). -/
def hostWrite (width off : Nat) (v : Word) (s : State) : Result :=
  hostAccess width off (fun slot s => refreshIrq (writeSlot slot v s)) s

end Sys2Proof.Machine
end

