-- ==== Sys2Proof/Machine/Events.lean ====
section
/-!
DEFINITION. What each coming event does: the engine's turn (40_command_interface.md R118), the host's accesses, the other
memory agents (70_reset_and_hazards.md R276, R277) and reset (R270 to R273).
-/

namespace Sys2Proof.Machine

/-- The engine's turn. It steps only while `phase != IDLE` (R118) and reset is not asserted (R270). An illegal word
ends with ILLEGAL_CMD and the word (40_command_interface.md R119, 60_exceptions.md R232); a legal one runs `exec`
of the command decoded from L.op, with the platform's answer on the bus. -/
def engineTurn (reply : BusReply) (s : State) : Result :=
  if s.inReset then .next s
  else
    match s.phase with
    | .idle => .next s
    | .validate | .exec =>
      match decodeWord s.lop with
      | .ok i => exec i { s with bus := reply }
      | .error _ => .next (raiseFault .illegalCmd s.lop { s with bus := reply })

/-- The element width of the table command that is in EXEC, if one is. -/
def runningTable (s : State) : Option ElemWidth :=
  match s.phase with
  | .idle | .validate => none
  | .exec =>
    match decodeWord s.lop with
    | .ok i => tableWidth i
    | .error _ => none

/-- The byte another agent sees at address `a`. While a table command runs, it may or may not see the command's
write of each entry of [BASE + B, TABLE_END], whole (R276, 20_memory.md R64, R69 item 3); a free draw decides per
entry and read. Elsewhere it sees memory. -/
def agentByte (s : State) (a : Nat) : Byte :=
  match runningTable s with
  | none => s.mem.readByte a
  | some b =>
    if entryAddr b s 1 ≤ a ∧ (a : Int) ≤ tableEnd b s then
      if Config.freeSeen s.draws ((a - s.la2.toNat) / b.bytes) then s.mem.readByte a else s.memOld.readByte a
    else s.mem.readByte a

/-- The checks of another agent's access of `len` bytes at `addr` (20_memory.md R65; log entry 15), then its effect. -/
def agentAccess (addr len : Nat) (effect : State → State) (s : State) : Result :=
  if addr + len > 2 ^ 64 then .fault .agentAddressBeyondSpace
  else if len = 0 then .next (effect s)
  else if onWindow s.cfg addr ((addr : Int) + len - 1) then .refused .agentOnWindow
  else if onRegion s.cfg.devices addr ((addr : Int) + len - 1) then .refused .agentOnDevice
  else if onRegion s.cfg.unkept addr ((addr : Int) + len - 1) then .refused .agentOnUnkept
  else .next (effect s)

/-- Another agent writes memory: one interleaved atomic write (R277). It is seen in memory with and without the
running command's writes alike. -/
def agentWrite (addr : Word) (bytes : List Byte) (s : State) : Result :=
  agentAccess addr.toNat bytes.length
    (fun s => { s with
      mem := s.mem.writeBytes addr.toNat bytes
      memOld := s.memOld.writeBytes addr.toNat bytes }) s

/-- Another agent reads memory. -/
def agentRead (addr : Word) (len : Nat) (s : State) : Result :=
  agentAccess addr.toNat len
    (fun s => { s with
      agentData := (List.range len).map fun k => agentByte s (addr.toNat + k)
      draws := s.draws + 1 }) s

/-- The write in flight when reset is asserted: the engine's next step, if that is a write (R272; log entry 7). -/
def inFlightWrite (s : State) : Option (ElemWidth × Nat × Nat) :=
  match runningTable s with
  | none => none
  | some b =>
    match pendingWrite b s with
    | none => none
    | some (addr, v) => if inSpace b addr then some (b, addr, v) else none

/-- A write in flight at reset lands whole or not at all, as a free draw decides (R272). -/
def landInFlight (s : State) : State :=
  match inFlightWrite s with
  | none => s
  | some (b, addr, v) =>
    if Config.freeLands s.draws then { putEntry b addr v s with draws := s.draws + 1 }
    else { s with draws := s.draws + 1 }

/-- The block's own state at its reset values (10_state.md R41); memory, the parameters and what stands outside the
block are unchanged (R273). -/
def resetBlock (s : State) : State :=
  { s with
    ie := false
    cmd := 0
    busy := false
    done := false
    err := false
    cmdOvf := false
    errcode := .none
    arg0 := 0
    arg1 := 0
    arg2 := 0
    resLo := 0
    resHi := 0
    errinfo := 0
    progress := 0
    irq := false
    phase := .idle
    lop := 0
    la0 := 0
    la1 := 0
    la2 := 0
    idx := 0
    tmpv := 0
    seq := .w1 }

/-- Reset is asserted: a running command is abandoned, memory keeps the writes performed (R271 to R273). -/
def assertReset (s : State) : State := { resetBlock (landInFlight s) with inReset := true }

/-- Reset is released: the block waits for a CMD write (R271). -/
def releaseReset (s : State) : State := { s with inReset := false }

/-- What an event does. -/
def perform (e : Event) (s : State) : Result :=
  match e with
  | .hostRead width off => hostRead width off s
  | .hostWrite width off v => hostWrite width off v s
  | .engine reply => engineTurn reply s
  | .agentWrite addr bytes => agentWrite addr bytes s
  | .agentRead addr len => agentRead addr len s
  | .resetAssert => .next (assertReset s)
  | .resetRelease => .next (releaseReset s)

/-- irq is evaluated again after every step (10_state.md R37). -/
def settle (r : Result) : Result :=
  match r with
  | .next s => .next (refreshIrq s)
  | .fault f => .fault f
  | .refused f => .refused f

/-- The next event, taken off the schedule; when none is scheduled it is the engine's turn, without a bus error
(log entry 2). -/
def takeEvent (s : State) : Result :=
  match s.schedule with
  | [] => engineTurn .ok s
  | e :: rest => perform e { s with schedule := rest }

/-- The block with command word `w` accepted and the engine's turn next: what a host's write of `w` to CMD at an
idle block leaves (40_command_interface.md R114), with reset released. The model's loader; log entry 9. -/
def loadCommand (w : Word) (s : State) : State :=
  { refreshIrq (accept w s) with
    inReset := false
    schedule := .engine .ok :: s.schedule }

end Sys2Proof.Machine
end

