-- ==== Sys2Proof/Machine/Step.lean ====
section
/-!
DEFINITION. One step of the machine: the next event, then irq (10_state.md R37).
-/

namespace Sys2Proof.Machine

/-- One step: the first event of the schedule, or the engine's turn. -/
def step (s : State) : Host.Outcome State Fault Refusal := settle (takeEvent s)

/-- `s` with the command word `w` (its bits above `nbits` zero) where the engine takes its next command from, so that
the very next step runs it: accepted, in VALIDATE, the engine's turn next (log entry 9). -/
def State.withFetchWord (s : State) (nbits w : Nat) : State := loadCommand (BitVec.ofNat 64 (tableBits nbits w)) s

end Sys2Proof.Machine
end

