-- ==== Sys2Proof/Safety.lean ====
section
/-!
DEFINITION. What claims about runs are stated in: the invariant of the block, what a safe step is, and runs of the engine
alone.
-/

namespace Sys2Proof.Machine

/-- BUSY, phase and the outcome registers agree: BUSY = 1 exactly when phase is not IDLE (10_state.md R36), a running
command shows no outcome (40_command_interface.md R117, R278), and no error is reported without a code (R30, R34). -/
def StatusCoherent (s : State) : Prop :=
  (s.busy = true ↔ s.phase ≠ .idle) ∧
  (s.busy = true → s.done = false ∧ s.err = false ∧ s.errcode = .none ∧ s.errinfo = 0) ∧
  (s.errcode = .none → s.err = false ∧ s.errinfo = 0)

/-- irq = DONE AND IE (10_state.md R37). -/
def IrqCoherent (s : State) : Prop := s.irq = (s.done && s.ie)

/-- Memory is in its canonical form. -/
def MemoryCanonical (s : State) : Prop := s.mem.wf = true ∧ s.memOld.wf = true

/-- Every register and hidden state of the block holds its reset value (10_state.md R41). -/
def BlockAtReset (s : State) : Prop :=
  s.ie = false ∧ s.cmd = 0 ∧ s.busy = false ∧ s.done = false ∧ s.err = false ∧ s.cmdOvf = false ∧
  s.errcode = .none ∧ s.arg0 = 0 ∧ s.arg1 = 0 ∧ s.arg2 = 0 ∧ s.resLo = 0 ∧ s.resHi = 0 ∧ s.errinfo = 0 ∧
  s.progress = 0 ∧ s.irq = false ∧ s.phase = .idle ∧ s.lop = 0 ∧ s.la0 = 0 ∧ s.la1 = 0 ∧ s.la2 = 0 ∧
  s.idx = 0 ∧ s.tmpv = 0

/-- While reset is asserted the block stands at its reset values (70_reset_and_hazards.md R270, R271). -/
def ResetCoherent (s : State) : Prop := s.inReset = true → BlockAtReset s

/-- The check of the VALIDATE step of a command (40_command_interface.md R119). -/
def checkOf (i : Instr) (s : State) : Option FaultReport :=
  match i with
  | .sqrt64 => checkSqrt64 s
  | .sqrt128 => checkSqrt128 s
  | .invtab32 => checkInvtab .w4 s
  | .invtab64 => checkInvtab .w8 s
  | .circfull | .circquad => checkCirc s
  | .divsum => checkDivsum s

/-- The number a command's EXEC phase ends with (40_command_interface.md R120). -/
def resultOf (i : Instr) (s : State) : Nat :=
  match i with
  | .sqrt64 => isqrt s.la0.toNat
  | .sqrt128 => isqrt (wideOperand s)
  | .invtab32 | .invtab64 => opN s
  | .circfull => circFullCount (opN s)
  | .circquad => circQuadCount (opN s)
  | .divsum => divisorSum (opN s)

/-- The operands of a table command that its checks let through (42_invtab.md R161). -/
def TableOperandsValid (b : ElemWidth) (s : State) : Prop :=
  1 ≤ sval s.la0 ∧ 2 ≤ sval s.la1 ∧ sval s.la1 ≤ mMax b s.cfg.wide128 ∧ s.la2.toNat % b.bytes = 0 ∧
  (s.la2.toNat : Int) + (sval s.la0 + 1) * b.bytes - 1 ≤ 2 ^ 64 - 1

/-- Some byte of the table span [BASE, TABLE_END] lies in the register window (70_reset_and_hazards.md R281). -/
def SpanOnWindow (b : ElemWidth) (s : State) : Prop :=
  ∃ a : Int, s.la2.toNat ≤ a ∧ a ≤ s.la2.toNat + (sval s.la0 + 1) * b.bytes - 1 ∧
    s.cfg.regBase.toNat ≤ a ∧ a ≤ s.cfg.regBase.toNat + 0x7F

/-- Some byte of the table span lies in one of these regions: the devices (R281), or the memory that does not keep
written values (20_memory.md R65). -/
def SpanOnRegion (regions : List Config.Region) (b : ElemWidth) (s : State) : Prop :=
  ∃ r ∈ regions, ∃ a : Int, s.la2.toNat ≤ a ∧ a ≤ s.la2.toNat + (sval s.la0 + 1) * b.bytes - 1 ∧
    r.base ≤ a ∧ a < r.base + r.size

/-- The table span lies in ordinary memory: no byte of it in the window, in a device, or in memory that does not keep
written values (20_memory.md R65, 70_reset_and_hazards.md R281). -/
def TablePlaced (b : ElemWidth) (s : State) : Prop :=
  ¬ SpanOnWindow b s ∧ ¬ SpanOnRegion s.cfg.devices b s ∧ ¬ SpanOnRegion s.cfg.unkept b s

/-- A table command just accepted, whose checks will pass and whose placement is not refused. -/
def TableReady (i : Instr) (b : ElemWidth) (s : State) : Prop :=
  tableWidth i = some b ∧ decodeWord s.lop = .ok i ∧ s.phase = .validate ∧ s.inReset = false ∧
  s.mem.wf = true ∧ TableOperandsValid b s ∧ TablePlaced b s

/-- What no command changes, whichever step of it runs: the parameters, the reset input, CTRL, CMD, CMD_OVF, the
operand registers, the latch, and what stands outside the block (10_state.md R32, 40_command_interface.md R121,
60_exceptions.md R234). -/
def SameOutside (s t : State) : Prop :=
  t.cfg = s.cfg ∧ t.inReset = s.inReset ∧ t.ie = s.ie ∧ t.cmd = s.cmd ∧ t.cmdOvf = s.cmdOvf ∧
  t.arg0 = s.arg0 ∧ t.arg1 = s.arg1 ∧ t.arg2 = s.arg2 ∧ t.lop = s.lop ∧ t.la0 = s.la0 ∧ t.la1 = s.la1 ∧
  t.la2 = s.la2 ∧ t.memOld = s.memOld ∧ t.hostT = s.hostT ∧ t.agentData = s.agentData ∧ t.bus = s.bus ∧
  t.schedule = s.schedule

/-- Where a table command in EXEC stands in the sequence of 42_invtab.md R162: its placement is not refused, and idx,
PROGRESS and the next step agree. -/
def TableCoherent (b : ElemWidth) (s : State) : Prop :=
  tableRefusal b s = none ∧
  match s.seq with
  | .w1 => s.idx.toNat = 1 ∧ s.progress.toNat = 0
  | .ra => 2 ≤ s.idx.toNat ∧ s.idx.toNat ≤ opN s + 1 ∧ s.progress.toNat + 1 = s.idx.toNat
  | .wa => 2 ≤ s.idx.toNat ∧ s.idx.toNat ≤ opN s ∧ s.progress.toNat + 1 = s.idx.toNat ∧
      opM s % s.idx.toNat ≠ 0

/-- A command in EXEC is a legal one that passed its checks, and a table command is inside its sequence; in VALIDATE
nothing has happened yet (40_command_interface.md R114, R119, 10_state.md R35). -/
def EngineCoherent (s : State) : Prop :=
  match s.phase with
  | .idle => True
  | .validate => s.progress = 0 ∧ s.idx = 0
  | .exec => ∃ i, decodeWord s.lop = .ok i ∧ checkOf i s = none ∧
      match tableWidth i with
      | none => s.progress = 0
      | some b => TableCoherent b s

/-- `memOld` is memory without the running command's writes (20_memory.md R69 item 3; log entry 8): the two are one
memory until a command writes, and while a table command runs they can differ only inside the entries 1 .. PROGRESS it
has written. -/
def ViewCoherent (s : State) : Prop :=
  match s.phase with
  | .idle => True
  | .validate => s.memOld = s.mem
  | .exec =>
    match runningTable s with
    | none => s.memOld = s.mem
    | some b => ∀ a, (a < s.la2.toNat + b.bytes ∨ s.la2.toNat + (s.progress.toNat + 1) * b.bytes ≤ a) →
        s.memOld.readByte a = s.mem.readByte a

/-- The invariant of the block. -/
def BlockInv (s : State) : Prop :=
  StatusCoherent s ∧ IrqCoherent s ∧ MemoryCanonical s ∧ ResetCoherent s ∧ EngineCoherent s ∧ ViewCoherent s

/-- With WIDE128 = 0 the result fits 63 bits (10_state.md R33, 00_scope.md R8). -/
def NarrowResult (s : State) : Prop := s.cfg.wide128 = false → s.resHi = 0 ∧ s.resLo.toNat < 2 ^ 63

/-- A step that does not stop the machine with a fault. -/
def SafeStep (s : State) : Prop := ∀ f, step s ≠ .fault f

/-- `k` turns of the engine in a row, no other agent stepping between them and no bus error. -/
def engineRun : Nat → State → Result
  | 0, s => .next s
  | k + 1, s =>
    match engineTurn .ok s with
    | .next s' => engineRun k s'
    | .fault f => .fault f
    | .refused r => .refused r

/-- How many turns the engine still needs at most (40_command_interface.md R122, 42_invtab.md R169): VALIDATE and EXEC
for a command of one EXEC step, the rest of the sequence of 42_invtab.md R162 for a table command. -/
def turnsLeft (s : State) : Nat :=
  match s.phase with
  | .idle => 0
  | .validate =>
    match decodeWord s.lop with
    | .ok i => if (tableWidth i).isSome then 2 * opN s + 1 else 2
    | .error _ => 1
  | .exec =>
    match runningTable s with
    | none => 1
    | some _ =>
      match s.seq with
      | .w1 => 2 * opN s
      | .ra => 2 * (opN s + 1 - s.idx.toNat) + 1
      | .wa => 2 * (opN s + 1 - s.idx.toNat)

/-- The value of table entry i in memory (42_invtab.md R160). -/
def entryOf (b : ElemWidth) (s : State) (i : Nat) : Nat := s.mem.readLE (entryAddr b s i) b.bytes

end Sys2Proof.Machine
end

