-- ==== Sys2Proof/Certificates/Slice0/Obligations.lean ====
section
/-!
DEFINITION. The statements about the block, from the numbered rules of spec/. Each docstring names the rule. A statement
quantifies over all states, so over both values of WIDE128 and every placement of the window (`cfg` is a field that
no step changes); nothing rests on the value of a free draw.
-/

open Sys2Proof Sys2Proof.Machine

/-! ### Encoding -/

/-- 30_encoding.md R92, R94: the seven words of the opcode map decode to their commands; a word of each illegal kind
(V-E1 to V-E5 of 95_test_vectors.md) is rejected by its name. -/
def Obligations.OpcodeMapWords : Prop :=
  decodeWord 0x0000000000000001#64 = .ok .sqrt64 ∧
  decodeWord 0x0000000000000002#64 = .ok .sqrt128 ∧
  decodeWord 0x0000000000000003#64 = .ok .invtab32 ∧
  decodeWord 0x0000000000000004#64 = .ok .invtab64 ∧
  decodeWord 0x0000000000000005#64 = .ok .circfull ∧
  decodeWord 0x0000000000000006#64 = .ok .circquad ∧
  decodeWord 0x0000000000000007#64 = .ok .divsum ∧
  decodeWord 0x0000000000000000#64 = .error .opZero ∧
  decodeWord 0x0000000000000008#64 = .error .opHigh ∧
  decodeWord 0x000000000000000F#64 = .error .opHigh ∧
  decodeWord 0x0000000000000011#64 = .error .reservedBits ∧
  decodeWord 0x8000000000000005#64 = .error .reservedBits

/-- 30_encoding.md R92: the seven words are the numbers 1 to 7; decode and encode agree in both directions on all 2^64
words, and a word is rejected exactly when a reserved bit is set or its OP is 0x0 or 0x8 .. 0xF. -/
def Obligations.DecodeInvertsEncodeOnAllWords : Prop :=
  [Instr.sqrt64, .sqrt128, .invtab32, .invtab64, .circfull, .circquad, .divsum].map encode =
    [0x1#64, 0x2#64, 0x3#64, 0x4#64, 0x5#64, 0x6#64, 0x7#64] ∧
  ∀ w : Word,
    (∀ i : Instr, decodeWord w = .ok i ↔ w = encode i) ∧
    ((∃ e, decodeWord w = .error e) ↔ w.toNat / 16 ≠ 0 ∨ w.toNat % 16 = 0 ∨ 8 ≤ w.toNat % 16)

/-- 30_encoding.md R94: a word with OP = 0x0, OP in 0x8 .. 0xF or RSVD != 0, written to CMD while BUSY = 0, is accepted
and ends at the engine's next turn with ILLEGAL_CMD and ERRINFO = the word, whatever the operands, memory and RES are,
which all stay; every other word is the word of a command. -/
def Obligations.IllegalWordEndsWithIllegalCmd : Prop :=
  (∀ (s : State) (w : Word) (r : BusReply),
    s.inReset = false → s.busy = false →
    (w.toNat / 16 ≠ 0 ∨ w.toNat % 16 = 0 ∨ 8 ≤ w.toNat % 16) →
    ∃ s1, hostWrite 8 0x10 w s = .next s1 ∧ s1.cmd = w ∧ s1.busy = true ∧ s1.mem = s.mem ∧
      s1.resLo = s.resLo ∧ s1.resHi = s.resHi ∧
      engineTurn r s1 = .next { s1 with
        bus := r, err := true, errcode := .illegalCmd, errinfo := w, busy := false, done := true, phase := .idle,
        irq := s.ie }) ∧
  (∀ w : Word, (w.toNat / 16 ≠ 0 ∨ w.toNat % 16 = 0 ∨ 8 ≤ w.toNat % 16) ∨ ∃ i, w = encode i)

/-! ### Steps and events -/

/-- 40_command_interface.md R118 to R120: when the engine's turn comes, reset is not asserted and a command is running,
a step is exec of the command decoded from L.op, with the platform's answer on the bus and irq evaluated again. That the
turn comes as the next event of a list, and that with no event scheduled it is an engine's turn answered without a bus
error, is the model's choice (DESIGN CHOICE, log entry 2). -/
def Obligations.StepRunsDecodedCommand : Prop :=
  ∀ (s : State) (i : Instr), s.inReset = false → s.phase ≠ .idle → decodeWord s.lop = .ok i →
    (∀ (r : BusReply) (rest : List Event), s.schedule = .engine r :: rest →
      step s = settle (exec i { s with schedule := rest, bus := r })) ∧
    (s.schedule = [] → step s = settle (exec i { s with bus := .ok }))

/-- Each event is one step of its own: the host's accesses (40_command_interface.md R112), the other agents' accesses
(70_reset_and_hazards.md R276, R277) and reset (R270); an engine's turn while IDLE changes nothing (R118). The list of
events is the model's choice (log entry 2), reset as two events is log entry 16, and that an agent's write is one whole
step is log entry 17. -/
def Obligations.EventsAreSingleSteps : Prop :=
  ∀ (s : State) (rest : List Event),
    (∀ width off, s.schedule = .hostRead width off :: rest →
      step s = settle (hostRead width off { s with schedule := rest })) ∧
    (∀ width off v, s.schedule = .hostWrite width off v :: rest →
      step s = settle (hostWrite width off v { s with schedule := rest })) ∧
    (∀ addr bytes, s.schedule = .agentWrite addr bytes :: rest →
      step s = settle (agentWrite addr bytes { s with schedule := rest })) ∧
    (∀ addr len, s.schedule = .agentRead addr len :: rest →
      step s = settle (agentRead addr len { s with schedule := rest })) ∧
    (s.schedule = .resetAssert :: rest → step s = settle (.next (assertReset { s with schedule := rest }))) ∧
    (s.schedule = .resetRelease :: rest → step s = settle (.next (releaseReset { s with schedule := rest }))) ∧
    (∀ r, s.schedule = .engine r :: rest → s.phase = .idle →
      step s = settle (.next { s with schedule := rest }))

/-! ### The register window -/

/-- 40_command_interface.md R110: what RD returns at every offset, with no effect but the host's t; STATUS shows the
fault codes by the numbers of 60_exceptions.md R231. -/
def Obligations.HostReadReturnsEachRegister : Prop :=
  ∀ s : State, s.inReset = false →
    hostRead 8 0x00 s = .next { s with hostT := if s.cfg.wide128 then 0x103#64 else 0x102#64 } ∧
    hostRead 8 0x08 s = .next { s with hostT := if s.ie then 1#64 else 0#64 } ∧
    hostRead 8 0x10 s = .next { s with hostT := s.cmd } ∧
    hostRead 8 0x18 s = .next { s with
      hostT := BitVec.ofNat 64 ((match s.errcode with
        | .none => 0 | .illegalCmd => 1 | .unsupported => 2 | .negative => 3 | .domain => 4 | .range => 5
        | .align => 6 | .addrWrap => 7 | .noncoprime => 8 | .busError => 9) * 2 ^ 8 +
        (if s.cmdOvf then 8 else 0) + (if s.err then 4 else 0) + (if s.done then 2 else 0) +
        (if s.busy then 1 else 0)) } ∧
    hostRead 8 0x20 s = .next { s with hostT := s.arg0 } ∧
    hostRead 8 0x28 s = .next { s with hostT := s.arg1 } ∧
    hostRead 8 0x30 s = .next { s with hostT := s.arg2 } ∧
    hostRead 8 0x38 s = .next { s with hostT := s.resLo } ∧
    hostRead 8 0x40 s = .next { s with hostT := s.resHi } ∧
    hostRead 8 0x48 s = .next { s with hostT := s.errinfo } ∧
    hostRead 8 0x50 s = .next { s with hostT := s.progress } ∧
    ∀ off ∈ [0x58, 0x60, 0x68, 0x70, 0x78], hostRead 8 off s = .next { s with hostT := 0 }

/-- 10_state.md R27: the bits STATUS reads as, field by field, with every reserved bit 0, the read having no side effect;
ERRCODE (bits 11:8) shows each fault code by its number in 60_exceptions.md R231; a write of v clears DONE, ERR and
CMD_OVF where v has bit 1, 2, 3 set and changes nothing else but the irq line that follows DONE; after reset STATUS
reads 0. -/
def Obligations.StatusFieldsAndWriteOneToClear : Prop :=
  (∀ s : State, s.inReset = false →
    (∃ w : Word, hostRead 8 0x18 s = .next { s with hostT := w } ∧
      (∀ k, k < 64 → w.getLsbD k =
        if k = 0 then s.busy else if k = 1 then s.done else if k = 2 then s.err else if k = 3 then s.cmdOvf
        else if 8 ≤ k ∧ k ≤ 11 then s.errcode.code.testBit (k - 8) else false) ∧
      ∀ c ∈ [(ErrCode.none, 0), (.illegalCmd, 1), (.unsupported, 2), (.negative, 3), (.domain, 4), (.range, 5),
        (.align, 6), (.addrWrap, 7), (.noncoprime, 8), (.busError, 9)],
        s.errcode = c.1 → w.toNat / 2 ^ 8 % 2 ^ 4 = c.2) ∧
    (∀ v : Word, hostWrite 8 0x18 v s = .next { s with
      done := if v.getLsbD 1 then false else s.done
      err := if v.getLsbD 2 then false else s.err
      cmdOvf := if v.getLsbD 3 then false else s.cmdOvf
      irq := (if v.getLsbD 1 then false else s.done) && s.ie })) ∧
  hostRead 8 0x18 State.reset = .next { State.reset with hostT := 0 }

/-- 10_state.md R23: the reserved slots read 0 and a write to one has no effect, as a write to the read-only CAP, RES_LO,
RES_HI, ERRINFO or PROGRESS has none (R24, R33, R34, R35); the reserved bits of CAP, CTRL and STATUS read 0 whatever
the state, and a write to CTRL or STATUS reaches only the bits the spec gives it. (irq is what R37 says it is.) -/
def Obligations.ReservedAndReadOnlyIgnoreWrites : Prop :=
  ∀ s : State, s.inReset = false → s.irq = (s.done && s.ie) →
    (∀ off ∈ [0x58, 0x60, 0x68, 0x70, 0x78],
      (∃ t, hostRead 8 off s = .next t ∧ t.hostT = 0) ∧ ∀ v, hostWrite 8 off v s = .next s) ∧
    (∀ off ∈ [0x00, 0x38, 0x40, 0x48, 0x50], ∀ v, hostWrite 8 off v s = .next s) ∧
    (∃ t, hostRead 8 0x00 s = .next t ∧ t.hostT &&& 0xFFFFFFFFFFFF00FC#64 = 0) ∧
    (∃ t, hostRead 8 0x08 s = .next t ∧ t.hostT &&& 0xFFFFFFFFFFFFFFFE#64 = 0) ∧
    (∃ t, hostRead 8 0x18 s = .next t ∧ t.hostT &&& 0xFFFFFFFFFFFFF0F0#64 = 0) ∧
    (∀ v w : Word, v &&& 1#64 = w &&& 1#64 → hostWrite 8 0x08 v s = hostWrite 8 0x08 w s) ∧
    (∀ v w : Word, v &&& 0xE#64 = w &&& 0xE#64 → hostWrite 8 0x18 v s = hostWrite 8 0x18 w s)

/-- 10_state.md R32, 40_command_interface.md R111, R116: busy or not, a host write to ARG0, ARG1, ARG2 or CTRL takes
effect in that register at once and changes nothing else, so nothing of a running command (irq being what R37 says it
is). -/
def Obligations.OperandWritesTakeEffectAtOnce : Prop :=
  ∀ (s : State) (v : Word), s.inReset = false → s.irq = (s.done && s.ie) →
    hostWrite 8 0x20 v s = .next { s with arg0 := v } ∧
    hostWrite 8 0x28 v s = .next { s with arg1 := v } ∧
    hostWrite 8 0x30 v s = .next { s with arg2 := v } ∧
    hostWrite 8 0x08 v s = .next { s with ie := v.getLsbD 0, irq := s.done && v.getLsbD 0 }

/-- 10_state.md R25: a write to CTRL sets IE to bit 0 of the value and changes nothing else but the irq line, busy or
not; a read returns IE in bit 0 and zeros; IE is 0 after reset. -/
def Obligations.ControlRegisterHoldsOnlyIE : Prop :=
  (∀ (s : State) (v : Word), s.inReset = false →
    ∃ t u, hostWrite 8 0x08 v s = .next t ∧ t = { s with ie := v.getLsbD 0, irq := s.done && v.getLsbD 0 } ∧
      hostRead 8 0x08 t = .next u ∧ u.hostT = v &&& 1#64) ∧
  State.reset.ie = false

/-- 40_command_interface.md R113: a host access is refused exactly when it is not 8 bytes wide, not 8-byte aligned or
outside offsets 0x00 .. 0x7F, read and write alike. -/
def Obligations.UndefinedHostAccessesAreRefused : Prop :=
  ∀ (s : State) (width off : Nat) (v : Word), s.inReset = false →
    ((width ≠ 8 ∨ off % 8 ≠ 0 ∨ 0x7F < off) →
      (∃ r, hostRead width off s = .refused r) ∧ ∃ r, hostWrite width off v s = .refused r) ∧
    ((width = 8 ∧ off % 8 = 0 ∧ off ≤ 0x7F) →
      (∃ t, hostRead width off s = .next t) ∧ ∃ t, hostWrite width off v s = .next t)

/-! ### Accept, drop, running -/

/-- 40_command_interface.md R114: a write of v to CMD while BUSY = 0 accepts v, whatever v is; CMD_OVF, RES, CTRL, the
operand registers and memory stay; irq falls (R37). The model's own field `memOld`, memory without the writes of the
command that starts here, becomes memory as it stands, the pre-command content of 70_reset_and_hazards.md R276 (log
entry 8). -/
def Obligations.AcceptLatchesTheCommand : Prop :=
  ∀ (s : State) (v : Word), s.inReset = false → s.busy = false →
    hostWrite 8 0x10 v s = .next { s with
      cmd := v, lop := v, la0 := s.arg0, la1 := s.arg1, la2 := s.arg2, idx := 0,
      busy := true, done := false, err := false, errcode := .none, errinfo := 0, progress := 0,
      phase := .validate, memOld := s.mem, irq := false }

/-- 40_command_interface.md R115: a write to CMD while BUSY = 1 is dropped; its only effect is CMD_OVF <- 1 (irq being
what R37 says it is). -/
def Obligations.BusyBlockDropsCommand : Prop :=
  ∀ (s : State) (v : Word), s.inReset = false → s.busy = true → s.irq = (s.done && s.ie) →
    hostWrite 8 0x10 v s = .next { s with cmdOvf := true }

/-- 40_command_interface.md R123: no register access, and no other agent, touches a running command: the engine's state,
the latch, BUSY and the outcome registers stay. Only reset stops it. -/
def Obligations.OnlyResetStopsARunningCommand : Prop :=
  (∀ (s t : State) (e : Event), s.busy = true →
    ((∃ w o, e = .hostRead w o) ∨ (∃ w o v, e = .hostWrite w o v) ∨ (∃ a bs, e = .agentWrite a bs) ∨
      (∃ a n, e = .agentRead a n)) → perform e s = .next t →
    t.busy = true ∧ t.phase = s.phase ∧ t.cmd = s.cmd ∧ t.lop = s.lop ∧ t.la0 = s.la0 ∧ t.la1 = s.la1 ∧
    t.la2 = s.la2 ∧ t.idx = s.idx ∧ t.tmpv = s.tmpv ∧ t.seq = s.seq ∧ t.progress = s.progress ∧
    t.resLo = s.resLo ∧ t.resHi = s.resHi ∧ t.errcode = s.errcode ∧ t.errinfo = s.errinfo) ∧
  (∀ s : State, ∃ t, perform .resetAssert s = .next t ∧ t.busy = false ∧ t.phase = .idle ∧ t.done = false)

/-- 40_command_interface.md R122, R118, 42_invtab.md R169: a count of the engine's turns left, at most 2n + 1 for a table
command just accepted and at most 2 for every other word, that is 0 exactly when the engine is IDLE. Every turn of the
engine goes on and lowers it, whatever the platform answers, and the turn that reaches IDLE sets DONE; no access of the
host or of another agent changes it while the command runs. So every accepted command ends after finitely many turns,
however the agents interleave. (A table command at its VALIDATE step is one that is not refused for its placement,
70_reset_and_hazards.md R281; log entry 12.) -/
def Obligations.EveryCommandEnds : Prop :=
  ∀ s : State, BlockInv s → s.inReset = false →
    (turnsLeft s = 0 ↔ s.phase = .idle) ∧
    (s.phase = .validate →
      turnsLeft s ≤ 2 ∨ ∃ i b, decodeWord s.lop = .ok i ∧ tableWidth i = some b ∧ turnsLeft s ≤ 2 * opN s + 1) ∧
    (s.phase ≠ .idle →
      (∀ i b, s.phase = .validate → decodeWord s.lop = .ok i → tableWidth i = some b → TableOperandsValid b s →
        TablePlaced b s) →
      ∀ r : BusReply, ∃ t, engineTurn r s = .next t ∧ turnsLeft t < turnsLeft s ∧
        (t.phase = .idle → t.done = true ∧ t.busy = false)) ∧
    (∀ (e : Event) (t : State), s.busy = true →
      ((∃ w o, e = .hostRead w o) ∨ (∃ w o v, e = .hostWrite w o v) ∨ (∃ a bs, e = .agentWrite a bs) ∨
        (∃ a n, e = .agentRead a n)) → perform e s = .next t → turnsLeft t = turnsLeft s)

/-! ### Square roots -/

/-- 41_sqrt.md R140: isqrt(n) is the one r with r*r <= n < (r+1)*(r+1), for every n. -/
def Obligations.IsqrtMeetsItsContract : Prop :=
  ∀ n r : Nat, r = isqrt n ↔ r * r ≤ n ∧ n < (r + 1) * (r + 1)

/-- 41_sqrt.md R144: the roots beside perfect squares, and isqrt does not decrease. -/
def Obligations.IsqrtBesideSquaresAndMonotone : Prop :=
  (∀ k : Nat, 1 ≤ k → isqrt (k * k) = k ∧ isqrt (k * k - 1) = k - 1 ∧ isqrt (k * k + 1) = k) ∧
  (∀ m n : Nat, m ≤ n → isqrt m ≤ isqrt n) ∧ isqrt 0 = 0

/-- 41_sqrt.md R141: SQRT64 passes VALIDATE on every operand, and its EXEC step ends with the root of the unsigned 64-bit
L.a0 in RES_LO, below 2^32, and RES_HI = 0; nothing else changes but the end of the command (R121). -/
def Obligations.Sqrt64Completes : Prop :=
  ∀ s : State,
    (s.phase = .validate → exec .sqrt64 s = .next { s with phase := .exec }) ∧
    (s.phase = .exec → ∃ r : Nat, r * r ≤ s.la0.toNat ∧ s.la0.toNat < (r + 1) * (r + 1) ∧ r < 2 ^ 32 ∧
      exec .sqrt64 s = .next { s with
        resLo := BitVec.ofNat 64 r, resHi := 0, err := false, errcode := .none, busy := false, done := true,
        phase := .idle, irq := s.ie })

/-- 41_sqrt.md R142, 30_encoding.md R95: with WIDE128 = 1 SQRT128 passes VALIDATE on every operand and ends with the
root of L.a1 : L.a0 in RES_LO, below 2^64, and RES_HI = 0; with WIDE128 = 0 its VALIDATE step ends with UNSUPPORTED
and ERRINFO = the command word. -/
def Obligations.Sqrt128Completes : Prop :=
  ∀ s : State,
    (s.phase = .validate → s.cfg.wide128 = true → exec .sqrt128 s = .next { s with phase := .exec }) ∧
    (s.phase = .validate → s.cfg.wide128 = false → exec .sqrt128 s = .next { s with
      err := true, errcode := .unsupported, errinfo := s.lop, busy := false, done := true, phase := .idle,
      irq := s.ie }) ∧
    (s.phase = .exec → ∃ r : Nat, r * r ≤ s.la1.toNat * 2 ^ 64 + s.la0.toNat ∧
      s.la1.toNat * 2 ^ 64 + s.la0.toNat < (r + 1) * (r + 1) ∧ r < 2 ^ 64 ∧
      exec .sqrt128 s = .next { s with
        resLo := BitVec.ofNat 64 r, resHi := 0, err := false, errcode := .none, busy := false, done := true,
        phase := .idle, irq := s.ie })

/-! ### The lattice counts -/

/-- 43_circle.md R190, R195: the computed counts are the numbers of integer points of the closed disc, in the whole plane
and with both coordinates at least 1, boundary included. -/
def Obligations.LatticeCountsAreExact : Prop :=
  ∀ n : Nat,
    circFullCount n = Set.ncard {p : ℤ × ℤ | p.1 * p.1 + p.2 * p.2 ≤ (n : ℤ)} ∧
    circQuadCount n = Set.ncard {p : ℤ × ℤ | 1 ≤ p.1 ∧ 1 ≤ p.2 ∧ p.1 * p.1 + p.2 * p.2 ≤ (n : ℤ)}

/-- 43_circle.md R191: C(n) = 4*Q(n) + 4*isqrt(n) + 1 for every n; R196: the small values. -/
def Obligations.LatticeCountIdentity : Prop :=
  (∀ n : Nat, circFullCount n = 4 * circQuadCount n + 4 * isqrt n + 1) ∧
  circFullCount 0 = 1 ∧ circFullCount 1 = 5 ∧ circQuadCount 0 = 0 ∧ circQuadCount 1 = 0 ∧ circQuadCount 2 = 1

/-- 43_circle.md R193: on every non-negative n, CIRCFULL's EXEC step ends with RES_HI:RES_LO equal to the number of
lattice points of the closed disc, exactly (no truncation), and nothing else changes but the end of the command. -/
def Obligations.CircfullCompletes : Prop :=
  ∀ s : State, s.phase = .exec → 0 ≤ sval s.la0 →
    ∃ lo hi : Word, exec .circfull s = .next { s with
        resLo := lo, resHi := hi, err := false, errcode := .none, busy := false, done := true, phase := .idle,
        irq := s.ie } ∧
      hi.toNat * 2 ^ 64 + lo.toNat = Set.ncard {p : ℤ × ℤ | p.1 * p.1 + p.2 * p.2 ≤ sval s.la0} ∧
      (hi.toNat * 2 ^ 64 + lo.toNat) % 4 = 1

/-- 43_circle.md R194: on every non-negative n, CIRCQUAD's EXEC step ends with RES_HI:RES_LO equal to the number of
lattice points of the closed disc with x >= 1 and y >= 1, exactly. -/
def Obligations.CircquadCompletes : Prop :=
  ∀ s : State, s.phase = .exec → 0 ≤ sval s.la0 →
    ∃ lo hi : Word, exec .circquad s = .next { s with
        resLo := lo, resHi := hi, err := false, errcode := .none, busy := false, done := true, phase := .idle,
        irq := s.ie } ∧
      hi.toNat * 2 ^ 64 + lo.toNat =
        Set.ncard {p : ℤ × ℤ | 1 ≤ p.1 ∧ 1 ≤ p.2 ∧ p.1 * p.1 + p.2 * p.2 ≤ sval s.la0}

/-- 43_circle.md R197: the VALIDATE step of CIRCFULL and CIRCQUAD: NEGATIVE on bit 63, RANGE above 2^61 when
WIDE128 = 0, and every other n passes, n = 0 and n = 2^61 included. -/
def Obligations.CircleOperandChecks : Prop :=
  ∀ (s : State) (i : Instr), (i = .circfull ∨ i = .circquad) → s.phase = .validate →
    (sval s.la0 < 0 → exec i s = .next { s with
      err := true, errcode := .negative, errinfo := s.la0, busy := false, done := true, phase := .idle,
      irq := s.ie }) ∧
    (s.cfg.wide128 = false → 2 ^ 61 < sval s.la0 → exec i s = .next { s with
      err := true, errcode := .range, errinfo := s.la0, busy := false, done := true, phase := .idle,
      irq := s.ie }) ∧
    (0 ≤ sval s.la0 → (s.cfg.wide128 = true ∨ sval s.la0 ≤ 2 ^ 61) → exec i s = .next { s with phase := .exec })

/-! ### The divisor sum -/

/-- 44_divsum.md R210, R211: the computed D(n) is the sum of the divisor counts of 1 .. n, and the sum of n div i. -/
def Obligations.DivisorSumIsExact : Prop :=
  ∀ n : Nat,
    divisorSum n = ∑ k ∈ Finset.Icc 1 n, ((Finset.Icc 1 k).filter fun j => k % j = 0).card ∧
    divisorSum n = ∑ i ∈ Finset.Icc 1 n, n / i ∧
    (divisorSum n : ℤ) = 2 * (∑ i ∈ Finset.Icc 1 (isqrt n), ((n / i : ℕ) : ℤ)) - (isqrt n : ℤ) * isqrt n

/-- 44_divsum.md R212: on every non-negative n, DIVSUM's EXEC step ends with RES_HI:RES_LO equal to the summatory divisor
function, exactly, and nothing else changes but the end of the command. -/
def Obligations.DivsumCompletes : Prop :=
  ∀ s : State, s.phase = .exec → 0 ≤ sval s.la0 →
    ∃ lo hi : Word, exec .divsum s = .next { s with
        resLo := lo, resHi := hi, err := false, errcode := .none, busy := false, done := true, phase := .idle,
        irq := s.ie } ∧
      hi.toNat * 2 ^ 64 + lo.toNat =
        ∑ k ∈ Finset.Icc 1 s.la0.toNat, ((Finset.Icc 1 k).filter fun j => k % j = 0).card

/-- 44_divsum.md R213: the VALIDATE step of DIVSUM: NEGATIVE on bit 63, RANGE above 2^57 when WIDE128 = 0, and every
other n passes, n = 0 and n = 2^57 included. -/
def Obligations.DivsumOperandChecks : Prop :=
  ∀ s : State, s.phase = .validate →
    (sval s.la0 < 0 → exec .divsum s = .next { s with
      err := true, errcode := .negative, errinfo := s.la0, busy := false, done := true, phase := .idle,
      irq := s.ie }) ∧
    (s.cfg.wide128 = false → 2 ^ 57 < sval s.la0 → exec .divsum s = .next { s with
      err := true, errcode := .range, errinfo := s.la0, busy := false, done := true, phase := .idle,
      irq := s.ie }) ∧
    (0 ≤ sval s.la0 → (s.cfg.wide128 = true ∨ sval s.la0 ≤ 2 ^ 57) →
      exec .divsum s = .next { s with phase := .exec })

/-- 00_scope.md R8: each ceiling keeps the exact result of every accepted input inside 63 bits (CEIL_CIRC64, CEIL_DIV64),
or every product of the inverse recurrence (CEIL_M64: below m^2/2, and 2^63 when m < 2^32); and the wide results stay
inside the bounds of 43_circle.md R197 and 44_divsum.md R213. -/
def Obligations.CeilingsBoundTheResults : Prop :=
  (∀ n : Nat, n ≤ 2 ^ 61 → circFullCount n < 2 ^ 63 ∧ circQuadCount n < 2 ^ 63) ∧
  (∀ n : Nat, n ≤ 2 ^ 57 → divisorSum n < 2 ^ 63) ∧
  (∀ m i v : Nat, 2 ≤ i → v < m → 2 * (m / i * v) < m * m ∧ (m < 2 ^ 32 → m / i * v < 2 ^ 63)) ∧
  (∀ n : Nat, n < 2 ^ 63 → circFullCount n < 2 ^ 65 ∧ divisorSum n < 2 ^ 69)

/-- 00_scope.md R10 (the commands that touch no memory): the outcome is a function of phase, the command word, the latched
operands and WIDE128 alone, whatever ran before. -/
def Obligations.OutcomeDependsOnlyOnLatch : Prop :=
  ∀ (i : Instr) (s s' t t' : State), tableWidth i = none →
    s.phase = s'.phase → s.lop = s'.lop → s.la0 = s'.la0 → s.la1 = s'.la1 → s.cfg.wide128 = s'.cfg.wide128 →
    exec i s = .next t → exec i s' = .next t' →
    t.phase = t'.phase ∧
    (s.phase = .exec → t.resLo = t'.resLo ∧ t.resHi = t'.resHi ∧ t.err = t'.err ∧ t.errcode = t'.errcode) ∧
    (s.phase = .validate → t.phase = .idle →
      t.err = t'.err ∧ t.errcode = t'.errcode ∧ t.errinfo = t'.errinfo)

/-! ### The inverse table -/

/-- 42_invtab.md R161, 60_exceptions.md R235: the VALIDATE step of the table commands, check by check in priority order,
with the info word of each fault (R232); valid operands whose span lies in ordinary memory go on to step W1 with
idx = 1. -/
def Obligations.TableOperandChecks : Prop :=
  ∀ (i : Instr) (b : ElemWidth) (s : State), tableWidth i = some b → s.phase = .validate →
    let n := sval s.la0
    let m := sval s.la1
    let mmax : ℤ := match b with
      | .w4 => 2 ^ 31 - 1
      | .w8 => if s.cfg.wide128 then 2 ^ 63 - 1 else 2 ^ 32 - 1
    let B : Nat := match b with
      | .w4 => 4
      | .w8 => 8
    let fault := fun (c : ErrCode) (w : Word) => (Host.Outcome.next { s with
      err := true, errcode := c, errinfo := w, busy := false, done := true, phase := .idle,
      irq := s.ie } : Result)
    (n < 0 → exec i s = fault .negative s.la0) ∧
    (0 ≤ n → m < 0 → exec i s = fault .negative s.la1) ∧
    (n = 0 → 0 ≤ m → exec i s = fault .domain s.la0) ∧
    (1 ≤ n → 0 ≤ m → m < 2 → exec i s = fault .domain s.la1) ∧
    (1 ≤ n → 2 ≤ m → mmax < m → exec i s = fault .range s.la1) ∧
    (1 ≤ n → 2 ≤ m → m ≤ mmax → s.la2.toNat % B ≠ 0 → exec i s = fault .align s.la2) ∧
    (1 ≤ n → 2 ≤ m → m ≤ mmax → s.la2.toNat % B = 0 → 2 ^ 64 - 1 < (s.la2.toNat : ℤ) + (n + 1) * B - 1 →
      exec i s = fault .addrWrap s.la2) ∧
    (1 ≤ n → 2 ≤ m → m ≤ mmax → s.la2.toNat % B = 0 → (s.la2.toNat : ℤ) + (n + 1) * B - 1 ≤ 2 ^ 64 - 1 →
      TablePlaced b s →
      exec i s = .next { s with phase := .exec, idx := 1, seq := .w1 })

/-- 70_reset_and_hazards.md R281, 20_memory.md R65: a table command whose span has a byte in the register window, in a
device region or in memory that does not keep written values is refused by name. That its operand checks come first,
and which name is given where two apply, is the model's reading, log entry 12. -/
def Obligations.TableOutsideOrdinaryMemoryIsRefused : Prop :=
  ∀ (i : Instr) (b : ElemWidth) (s : State), tableWidth i = some b → s.phase = .validate → TableOperandsValid b s →
    (SpanOnWindow b s → exec i s = .refused .tableOverWindow) ∧
    (SpanOnRegion s.cfg.devices b s → ¬ SpanOnWindow b s → exec i s = .refused .tableOverDevice) ∧
    (SpanOnRegion s.cfg.unkept b s → ¬ SpanOnWindow b s → ¬ SpanOnRegion s.cfg.devices b s →
      exec i s = .refused .tableOverUnkept)

/-- 42_invtab.md R162, step W1: the entry 1 is written to address BASE + B, PROGRESS <- 1, idx <- 2; nothing else. -/
def Obligations.TableSeedStep : Prop :=
  ∀ (i : Instr) (b : ElemWidth) (s : State), tableWidth i = some b → s.phase = .exec → s.seq = .w1 →
    TableOperandsValid b s → s.bus = .ok →
    exec i s = .next { s with
      mem := s.mem.writeLE (s.la2.toNat + b.bytes) b.bytes 1, progress := 1, idx := 2, seq := .ra }

/-- 42_invtab.md R162, R163, step Ra at i = idx when m mod i != 0: entry m mod i is read back from memory into tmpv,
zero-extended; nothing else changes. -/
def Obligations.TableReadBackStep : Prop :=
  ∀ (i : Instr) (b : ElemWidth) (s : State), tableWidth i = some b → s.phase = .exec → s.seq = .ra →
    TableOperandsValid b s → 1 ≤ s.idx.toNat → s.idx.toNat ≤ opN s → opM s % s.idx.toNat ≠ 0 → s.bus = .ok →
    exec i s = .next { s with
      tmpv := BitVec.ofNat 64 (s.mem.readLE (s.la2.toNat + opM s % s.idx.toNat * b.bytes) b.bytes), seq := .wa }

/-- 42_invtab.md R162, step Wa at i = idx: w = (m - ((m div i) * tmpv) mod m) mod m, evaluated in ℤ, lies in [0, m), is
stored at BASE + i*B and reads back as w; PROGRESS <- i, idx <- i + 1; nothing else. -/
def Obligations.TableWriteStep : Prop :=
  ∀ (i : Instr) (b : ElemWidth) (s : State), tableWidth i = some b → s.phase = .exec → s.seq = .wa →
    TableOperandsValid b s → s.idx.toNat ≤ opN s → s.bus = .ok → s.mem.wf = true →
    ∃ w : Nat, (w : ℤ) = (sval s.la1 - (sval s.la1 / (s.idx.toNat : ℤ) * s.tmpv.toNat) % sval s.la1) % sval s.la1 ∧
      (w : ℤ) < sval s.la1 ∧
      ∃ t, exec i s = .next t ∧ t = { s with
          mem := s.mem.writeLE (s.la2.toNat + s.idx.toNat * b.bytes) b.bytes w, progress := s.idx,
          idx := s.idx + 1, seq := .ra } ∧
        t.mem.readLE (s.la2.toNat + s.idx.toNat * b.bytes) b.bytes = w

/-- 42_invtab.md R162, step END, 40_command_interface.md R121: once idx > n the command ends with RES_LO = n and
RES_HI = 0. -/
def Obligations.TableEndStep : Prop :=
  ∀ (i : Instr) (b : ElemWidth) (s : State), tableWidth i = some b → s.phase = .exec → s.seq = .ra →
    TableOperandsValid b s → opN s < s.idx.toNat →
    exec i s = .next { s with
      resLo := s.la0, resHi := 0, err := false, errcode := .none, busy := false, done := true, phase := .idle,
      irq := s.ie }

/-- 42_invtab.md R164, 60_exceptions.md R236: step Ra at an index i <= n with m mod i = 0 ends the command with
NONCOPRIME and ERRINFO = i, without an access: memory, RES and PROGRESS stay. -/
def Obligations.NoncoprimeIndexEndsCommand : Prop :=
  ∀ (i : Instr) (b : ElemWidth) (s : State), tableWidth i = some b → s.phase = .exec → s.seq = .ra →
    s.idx.toNat ≤ opN s → opM s % s.idx.toNat = 0 →
    exec i s = .next { s with
      err := true, errcode := .noncoprime, errinfo := s.idx, busy := false, done := true, phase := .idle,
      irq := s.ie }

/-- 60_exceptions.md R236, R231, R232: an access answered with an error ends the command with BUS_ERROR and the address
of the access; a failed read leaves memory unchanged; a failed write leaves every byte outside its B bytes unchanged
(the B bytes are free); PROGRESS, idx and RES stay. -/
def Obligations.BusErrorEndsCommand : Prop :=
  ∀ (i : Instr) (b : ElemWidth) (s : State), tableWidth i = some b → s.phase = .exec → s.bus = .error →
    TableOperandsValid b s →
    ∀ addr : Nat,
      ((s.seq = .w1 ∧ addr = s.la2.toNat + b.bytes) ∨
       (s.seq = .wa ∧ s.idx.toNat ≤ opN s ∧ addr = s.la2.toNat + s.idx.toNat * b.bytes) ∨
       (s.seq = .ra ∧ 1 ≤ s.idx.toNat ∧ s.idx.toNat ≤ opN s ∧ opM s % s.idx.toNat ≠ 0 ∧
        addr = s.la2.toNat + opM s % s.idx.toNat * b.bytes)) →
      ∃ t, exec i s = .next t ∧ t.err = true ∧ t.errcode = .busError ∧ t.errinfo.toNat = addr ∧
        t.done = true ∧ t.busy = false ∧ t.phase = .idle ∧ t.irq = s.ie ∧
        t.progress = s.progress ∧ t.idx = s.idx ∧ t.tmpv = s.tmpv ∧ t.resLo = s.resLo ∧ t.resHi = s.resHi ∧
        SameOutside s t ∧ (s.seq = .ra → t.mem = s.mem) ∧
        ∀ a, (a < addr ∨ addr + b.bytes ≤ a) → t.mem.readByte a = s.mem.readByte a

/-- The frame of the table commands (42_invtab.md R162, 20_memory.md R64, R74): whatever step goes on, only the outcome,
PROGRESS, idx, tmpv and the place in the sequence may change, and every byte of memory outside the B bytes of the
address the step writes (BASE + B in step W1, BASE + idx*B in step Wa, none otherwise) reads as before. -/
def Obligations.TableCommandFrame : Prop :=
  ∀ (i : Instr) (b : ElemWidth) (s t : State), tableWidth i = some b → exec i s = .next t →
    SameOutside s t ∧
    (t.phase ≠ .idle ∨ t.err = true → t.resLo = s.resLo ∧ t.resHi = s.resHi) ∧
    (t.seq = s.seq ∨ t.phase = .exec) ∧
    (s.phase ≠ .exec ∨ s.seq = .ra → t.mem = s.mem ∧ t.progress = s.progress) ∧
    (∀ addr : Nat, s.phase = .exec → (s.seq = .w1 ∧ addr = entryAddr b s 1 ∨
        s.seq = .wa ∧ addr = entryAddr b s s.idx.toNat) →
      ∀ a, (a < addr ∨ addr + b.bytes ≤ a) → t.mem.readByte a = s.mem.readByte a)

/-- The frame of SQRT64, SQRT128, CIRCFULL, CIRCQUAD and DIVSUM (10_state.md R40, R35, 40_command_interface.md R121,
60_exceptions.md R234): no byte of memory, no operand register, not PROGRESS, idx or tmpv; RES only in a successful
end, ERRINFO only in a faulted one. -/
def Obligations.RegisterCommandFrame : Prop :=
  ∀ (i : Instr) (s t : State), tableWidth i = none → exec i s = .next t →
    SameOutside s t ∧ t.progress = s.progress ∧ t.idx = s.idx ∧ t.tmpv = s.tmpv ∧ t.seq = s.seq ∧
    t.draws = s.draws ∧
    (s.phase ≠ .exec → t.resLo = s.resLo ∧ t.resHi = s.resHi) ∧
    (s.phase ≠ .validate ∨ t.phase = .exec → t.errinfo = s.errinfo) ∧
    (∀ a, t.mem.readByte a = s.mem.readByte a)

/-- 42_invtab.md R167, R169: with no other agent and no bus error, a table command with every i in [1, n] coprime to m
ends at its turn 2n + 1 of the engine, and not before, successfully, with RES = n and PROGRESS = n, and every entry i of
the table lies in [0, m) and is the inverse of i modulo m. -/
def Obligations.InverseTableIsCorrect : Prop :=
  ∀ (i : Instr) (b : ElemWidth) (s : State), TableReady i b s →
    (∀ j, 1 ≤ j → j ≤ opN s → Nat.Coprime j (opM s)) →
    ∃ u t, engineRun (2 * opN s) s = .next u ∧ u.phase ≠ .idle ∧ engineRun (2 * opN s + 1) s = .next t ∧
      t.phase = .idle ∧ t.busy = false ∧ t.done = true ∧ t.err = false ∧ t.errcode = .none ∧
      t.resLo.toNat = opN s ∧ t.resHi = 0 ∧ t.progress.toNat = opN s ∧
      ∀ j, 1 ≤ j → j ≤ opN s → entryOf b t j < opM s ∧ j * entryOf b t j % opM s = 1

/-- 42_invtab.md R164, R167: with no other agent and no bus error, a table command that meets an index p <= n with
m mod p = 0, p the first such from 2 up, ends with NONCOPRIME, ERRINFO = p and PROGRESS = p - 1 at its turn 2p - 1, and
not before; p is the first index not coprime to m; RES stays; entries 1 .. p-1 are true inverses; every byte outside them keeps its
content. -/
def Obligations.NoncoprimeRunKeepsTrueInverses : Prop :=
  ∀ (i : Instr) (b : ElemWidth) (s : State) (p : Nat), TableReady i b s →
    2 ≤ p → p ≤ opN s → opM s % p = 0 → (∀ j, 2 ≤ j → j < p → opM s % j ≠ 0) →
    (¬ Nat.Coprime p (opM s) ∧ ∀ j, 1 ≤ j → j < p → Nat.Coprime j (opM s)) ∧
    ∃ u t, engineRun (2 * p - 2) s = .next u ∧ u.phase ≠ .idle ∧ engineRun (2 * p - 1) s = .next t ∧
      t.phase = .idle ∧ t.busy = false ∧ t.done = true ∧ t.err = true ∧ t.errcode = .noncoprime ∧
      t.errinfo.toNat = p ∧ t.progress.toNat = p - 1 ∧ t.resLo = s.resLo ∧ t.resHi = s.resHi ∧
      (∀ j, 1 ≤ j → j < p → entryOf b t j < opM s ∧ j * entryOf b t j % opM s = 1) ∧
      ∀ a, (a < s.la2.toNat + b.bytes ∨ s.la2.toNat + p * b.bytes ≤ a) → t.mem.readByte a = s.mem.readByte a

/-- 42_invtab.md R168: with m <= 2^31 - 1 and the same n and m, INVTAB32 and INVTAB64 end alike: the same fault or none,
the same index, the same number of entries written, the same entry values. The two start states satisfy the
invariant. -/
def Obligations.TableWidthIndependence : Prop :=
  ∀ s s' : State, BlockInv s → BlockInv s' → TableReady .invtab32 .w4 s → TableReady .invtab64 .w8 s' →
    s.la0 = s'.la0 → s.la1 = s'.la1 → opM s ≤ 2 ^ 31 - 1 →
    ∃ k t t', engineRun k s = .next t ∧ engineRun k s' = .next t' ∧ t.phase = .idle ∧ t'.phase = .idle ∧
      t.err = t'.err ∧ t.errcode = t'.errcode ∧ t.errinfo = t'.errinfo ∧ t.progress = t'.progress ∧
      (t.err = false → t.resLo = t'.resLo ∧ t.resHi = t'.resHi) ∧
      ∀ j, 1 ≤ j → j ≤ t.progress.toNat → entryOf .w4 t j = entryOf .w8 t' j

/-- 20_memory.md R74, R64, 42_invtab.md R169, 10_state.md R40: no turn of the engine, whatever the platform answers (a bus
error included, 60_exceptions.md R236) and whatever other agents did before it, changes a byte outside
[BASE + B, TABLE_END] of a table command: not index 0, nothing above index n; and the other commands, and illegal words,
change no byte of memory. -/
def Obligations.EngineWritesOnlyTheTable : Prop :=
  ∀ (s t : State) (r : BusReply), BlockInv s → engineTurn r s = .next t →
    ∀ a, (∀ i b, decodeWord s.lop = .ok i → tableWidth i = some b →
        (a < s.la2.toNat + b.bytes ∨ s.la2.toNat + (opN s + 1) * b.bytes ≤ a)) →
      t.mem.readByte a = s.mem.readByte a

/-! ### Faults -/

/-- 60_exceptions.md R234 as the VALIDATE step takes it: when the check of a command reports a fault, the command ends
with that code and info word, BUSY = 0, DONE = 1, irq = IE, and everything else as it was. -/
def Obligations.ValidateFaultRecord : Prop :=
  ∀ (i : Instr) (s : State) (c : ErrCode) (w : Word), s.phase = .validate → checkOf i s = some (c, w) →
    exec i s = .next { s with
      err := true, errcode := c, errinfo := w, busy := false, done := true, phase := .idle, irq := s.ie }

/-- 60_exceptions.md R233: which command can end with which fault, for either value of WIDE128, both ways: a "yes" of the
table has a state that shows it, one the invariant allows, with the command's word in the latch; a "no" has none, the
states no run reaches included; and an illegal word ends with ILLEGAL_CMD only. -/
def Obligations.FaultMatrix : Prop :=
  (∀ (i : Instr) (c : ErrCode) (wide : Bool), c ≠ .none →
    let possible : Prop := match c, i with
      | .unsupported, .sqrt128 => wide = false
      | .negative, .invtab32 | .negative, .invtab64 | .negative, .circfull | .negative, .circquad
      | .negative, .divsum => True
      | .domain, .invtab32 | .domain, .invtab64 => True
      | .range, .invtab32 => True
      | .range, .invtab64 | .range, .circfull | .range, .circquad | .range, .divsum => wide = false
      | .align, .invtab32 | .align, .invtab64 => True
      | .addrWrap, .invtab32 | .addrWrap, .invtab64 => True
      | .noncoprime, .invtab32 | .noncoprime, .invtab64 => True
      | .busError, .invtab32 | .busError, .invtab64 => True
      | _, _ => False
    (possible → ∃ s t, BlockInv s ∧ decodeWord s.lop = .ok i ∧ s.cfg.wide128 = wide ∧ s.phase ≠ .idle ∧
      s.errcode = .none ∧ exec i s = .next t ∧ t.errcode = c) ∧
    ((∃ s t, s.cfg.wide128 = wide ∧ s.phase ≠ .idle ∧ s.errcode = .none ∧ exec i s = .next t ∧ t.errcode = c) →
      possible)) ∧
  (∀ (s : State) (r : BusReply) (e : DecodeReject), s.inReset = false → s.phase ≠ .idle →
    decodeWord s.lop = .error e → ∃ t, engineTurn r s = .next t ∧ t.errcode = .illegalCmd)

/-! ### Rules of the whole machine -/

/-- 10_state.md R37: after every step irq = DONE AND IE. -/
def Obligations.IrqFollowsDoneAndEnable : Prop :=
  ∀ s t : State, step s = .next t → t.irq = (t.done && t.ie)

/-- 10_state.md R33: RES_LO and RES_HI change only in the step that ends a command successfully, or at reset. -/
def Obligations.ResultChangesOnlyOnSuccess : Prop :=
  ∀ s t : State, step s = .next t → (t.resLo ≠ s.resLo ∨ t.resHi ≠ s.resHi) →
    (s.phase = .exec ∧ t.phase = .idle ∧ t.done = true ∧ t.err = false ∧ t.errcode = .none) ∨
    ∃ rest, s.schedule = .resetAssert :: rest

/-- 10_state.md R31: CMD_OVF is set only by a write to CMD while BUSY = 1, and cleared only by a write to STATUS with
bit 3 set or by reset; a CMD write that sets it sets neither ERR nor irq. -/
def Obligations.OverflowFlagRule : Prop :=
  ∀ s t : State, step s = .next t →
    (s.cmdOvf = false → t.cmdOvf = true →
      (∃ v rest, s.schedule = .hostWrite 8 0x10 v :: rest) ∧ s.busy = true ∧ t.err = s.err ∧
        t.irq = (s.done && s.ie)) ∧
    (s.cmdOvf = true → t.cmdOvf = false →
      (∃ v rest, s.schedule = .hostWrite 8 0x18 v :: rest ∧ v.getLsbD 3 = true) ∨
      ∃ rest, s.schedule = .resetAssert :: rest)

/-- 10_state.md R30: ERRCODE changes only in the accept step, in the step that ends a command, or at reset: never by a
write to STATUS; a step that ends a command shows ERR = 1 exactly with a code other than 0. -/
def Obligations.ErrorCodeRule : Prop :=
  ∀ s t : State, step s = .next t →
    (t.errcode ≠ s.errcode →
      (∃ v rest, s.schedule = .hostWrite 8 0x10 v :: rest ∧ s.busy = false ∧ t.errcode = .none) ∨
      (s.phase ≠ .idle ∧ t.phase = .idle ∧ t.done = true) ∨
      ∃ rest, s.schedule = .resetAssert :: rest) ∧
    (s.phase ≠ .idle → t.phase = .idle → t.done = true → (t.err = true ↔ t.errcode ≠ .none))

/-- 10_state.md R32, 40_command_interface.md R114: the engine never writes ARG0, ARG1, ARG2, CTRL, CMD, CMD_OVF or the
latch: an engine's turn leaves them as they were. R42: no step of any kind changes a parameter. -/
def Obligations.EngineLeavesHostRegisters : Prop :=
  (∀ (s t : State) (r : BusReply), engineTurn r s = .next t →
    t.arg0 = s.arg0 ∧ t.arg1 = s.arg1 ∧ t.arg2 = s.arg2 ∧ t.ie = s.ie ∧ t.cmd = s.cmd ∧ t.cmdOvf = s.cmdOvf ∧
    t.lop = s.lop ∧ t.la0 = s.la0 ∧ t.la1 = s.la1 ∧ t.la2 = s.la2) ∧
  (∀ s t : State, step s = .next t → t.cfg = s.cfg)

/-- The invariant of the block: BUSY is 1 exactly when phase is not IDLE (10_state.md R36), STATUS of a running command
shows no outcome (40_command_interface.md R117), irq (R37), memory canonical, the block at its reset values while reset
is asserted (70_reset_and_hazards.md R270), the engine inside the sequence of its command (R118, 42_invtab.md R162),
and memory as an agent that has seen none of the running command's writes would see it (20_memory.md R69) differing
from memory only in the entries 1 .. PROGRESS. The canonical form of memory is the model's own (log entry 3), and so is
the field that holds the other view (log entry 8). -/
def Obligations.InvariantIsKept : Prop :=
  ∀ s t : State, BlockInv s → step s = .next t → BlockInv t

/-- 10_state.md R41: the invariant holds after reset, and the block is at its reset values. -/
def Obligations.InvariantAtReset : Prop :=
  BlockInv State.reset ∧ BlockAtReset State.reset ∧ NarrowResult State.reset

/-- 10_state.md R33, 40_command_interface.md R121: with WIDE128 = 0, RES_HI = 0 and RES_LO is below 2^63 at every point:
every step keeps it. -/
def Obligations.NarrowResultIsKept : Prop :=
  ∀ s t : State, BlockInv s → NarrowResult s → step s = .next t → NarrowResult t

/-- In a state the invariant allows, a step can stop the machine with a fault only on another agent's access past the top
of the address space; the engine never leaves the space (20_memory.md R67, 42_invtab.md R161; log entries 14, 15). -/
def Obligations.OnlyAgentsLeaveTheAddressSpace : Prop :=
  ∀ (s : State) (f : Fault), BlockInv s → step s = .fault f →
    f = .agentAddressBeyondSpace ∧
      ((∃ a bs rest, s.schedule = .agentWrite a bs :: rest ∧ 2 ^ 64 < a.toNat + bs.length) ∨
       ∃ a n rest, s.schedule = .agentRead a n :: rest ∧ 2 ^ 64 < a.toNat + n)

/-! ### Reset -/

/-- 70_reset_and_hazards.md R271, 60_exceptions.md R239: reset, in any state, also in the step in which a command would
end, puts every register and hidden state to its value of 10_state.md R41; the parameters stay. -/
def Obligations.ResetReachesTheResetState : Prop :=
  ∀ s : State, ∃ t, perform .resetAssert s = .next t ∧ BlockAtReset t ∧ t.inReset = true ∧ t.cfg = s.cfg

/-- 70_reset_and_hazards.md R272, R273: reset leaves every byte of memory, but that a table command's write in flight
(the next step of its sequence, if that is W1 or Wa) may land whole; in no other case does memory change. Which steps
have a write in flight is the model's reading, log entry 7. -/
def Obligations.ResetKeepsMemory : Prop :=
  ∀ s t : State, perform .resetAssert s = .next t →
    (∀ a, t.mem.readByte a = s.mem.readByte a) ∨
    ∃ i b, s.phase = .exec ∧ decodeWord s.lop = .ok i ∧ tableWidth i = some b ∧
      ((s.seq = .w1 ∧ t.mem = s.mem.writeLE (entryAddr b s 1) b.bytes 1) ∨
       (s.seq = .wa ∧ t.mem = s.mem.writeLE (entryAddr b s s.idx.toNat) b.bytes (entryValue s)))

/-- 70_reset_and_hazards.md R270: while reset is asserted the engine takes no step and every host access is refused. -/
def Obligations.AssertedResetHoldsTheBlock : Prop :=
  ∀ s : State, s.inReset = true →
    (∀ r, engineTurn r s = .next s) ∧
    (∀ width off, hostRead width off s = .refused .accessDuringReset) ∧
    (∀ width off v, hostWrite width off v s = .refused .accessDuringReset)

/-! ### Memory and the other agents -/

/-- 20_memory.md R60: MemRead is the sum of byte[addr + k] * 2^(8k) over k < n, and after MemWrite(addr, n, v) byte
addr + k is v[8k+7:8k]; the bytes outside are as before. -/
def Obligations.MemoryPortIsLittleEndian : Prop :=
  ∀ (m : Memory) (addr n v : Nat), m.wf = true → addr + n ≤ 2 ^ 64 →
    m.readLE addr n = ∑ k ∈ Finset.range n, (m.readByte (addr + k)).toNat * 2 ^ (8 * k) ∧
    (∀ k, k < n → ((m.writeLE addr n v).readByte (addr + k)).toNat = v / 2 ^ (8 * k) % 2 ^ 8) ∧
    (∀ a, (a < addr ∨ addr + n ≤ a) → (m.writeLE addr n v).readByte a = m.readByte a)

/-- 70_reset_and_hazards.md R276, 20_memory.md R64, R69: what another agent reads. With no table command in EXEC it sees
memory. During one, there is a set of entries whose writes it sees: each byte of the table is memory's where the entry
is in the set, and otherwise what memory holds without the command's writes; all other bytes are memory's, and in a
state that the invariant allows so is every byte outside the entries 1 .. PROGRESS, since no other write has been issued.
Nothing changes but what the agent has read and the draw counter. Memory without the command's writes is the model's own
field `memOld` (log entry 8): accept sets it (AcceptLatchesTheCommand), no engine step changes it (TableCommandFrame,
RegisterCommandFrame), other agents write it as they write memory (AgentWriteIsOneInterleaving), and the invariant ties
it to memory. -/
def Obligations.AgentReadSeesSubsetOfWrites : Prop :=
  ∀ (s t : State) (addr : Word) (len : Nat), agentRead addr len s = .next t →
    t = { s with agentData := t.agentData, draws := t.draws } ∧ t.agentData.length = len ∧
    (runningTable s = none → t.agentData = s.mem.readBytes addr.toNat len) ∧
    ∀ b, runningTable s = some b → ∃ seen : Nat → Bool, ∀ k, k < len →
      t.agentData[k]? = some
        (if s.la2.toNat + b.bytes ≤ addr.toNat + k ∧
            (addr.toNat : ℤ) + k ≤ s.la2.toNat + (sval s.la0 + 1) * b.bytes - 1 ∧
            seen ((addr.toNat + k - s.la2.toNat) / b.bytes) = false
         then s.memOld.readByte (addr.toNat + k) else s.mem.readByte (addr.toNat + k)) ∧
      (BlockInv s → (addr.toNat + k < s.la2.toNat + b.bytes ∨
          s.la2.toNat + (s.progress.toNat + 1) * b.bytes ≤ addr.toNat + k) →
        t.agentData[k]? = some (s.mem.readByte (addr.toNat + k)))

/-- 70_reset_and_hazards.md R277: another agent's write lands between two steps; a later engine read of those bytes reads
them. Nothing of the block changes. That the write is whole whatever its length is the model's reading (DEDUCED, unsafe,
log entry 17), and that it lands at once in memory and in memory as seen without the running command's writes is log
entries 17 and 8. -/
def Obligations.AgentWriteIsOneInterleaving : Prop :=
  ∀ (s t : State) (addr : Word) (bytes : List Byte), s.mem.wf = true → s.memOld.wf = true →
    agentWrite addr bytes s = .next t →
    (∀ k (h : k < bytes.length), t.mem.readByte (addr.toNat + k) = bytes[k] ∧
      t.memOld.readByte (addr.toNat + k) = bytes[k]) ∧
    (∀ a, (a < addr.toNat ∨ addr.toNat + bytes.length ≤ a) →
      t.mem.readByte a = s.mem.readByte a ∧ t.memOld.readByte a = s.memOld.readByte a) ∧
    t = { s with mem := t.mem, memOld := t.memOld }
end

