-- ==== Sys2Proof/Laws/Arith.lean ====
section
/-!
SUPPORT. The shared sum as a sum over a range, and the exact recurrence of the inverse table in ℤ.
-/

namespace Sys2Proof.Machine

theorem sumFrom_eq (f : Nat → Nat) (cnt x acc : Nat) :
    sumFrom f cnt x acc = acc + ∑ i ∈ Finset.range cnt, f (x + i) := by
  induction cnt generalizing x acc with
  | zero => simp [sumFrom]
  | succ cnt ih =>
    have hshift : ∀ i, f (x + 1 + i) = f (x + (i + 1)) := fun i => by rw [show x + 1 + i = x + (i + 1) by omega]
    rw [sumFrom, ih, Finset.sum_range_succ', Finset.sum_congr rfl (fun i _ => hshift i)]
    simp only [Nat.add_zero]
    omega

/-- The entry of step Wa is the ℤ formula of 42_invtab.md R162: no subtraction is cut off. -/
theorem invEntry_int {m : Nat} (hm : 0 < m) (i v : Nat) :
    (invEntry m i v : Int) = ((m : Int) - ((m : Int) / i * v) % m) % m := by
  have h : m / i * v % m ≤ m := (Nat.mod_lt _ hm).le
  unfold invEntry
  push_cast [Nat.cast_sub h]
  rfl

theorem invEntry_lt {m : Nat} (hm : 0 < m) (i v : Nat) : invEntry m i v < m := Nat.mod_lt _ hm

end Sys2Proof.Machine
end

