-- ==== Sys2Proof/Laws/Memory.lean ====
section
/-!
SUPPORT. What reading a byte gives after a write, that every memory operation keeps the canonical form, and that a
little-endian read after a little-endian write gives the value back.
-/

namespace Sys2Proof.Machine

@[simp] theorem Memory.readByte_nil (a : Nat) : Memory.readByte [] a = unlistedByte := rfl

theorem Memory.readByte_cons (k : Nat) (v : Byte) (m : Memory) (a : Nat) :
    Memory.readByte ((k, v) :: m) a = if a = k then v else m.readByte a := rfl

@[simp] theorem Memory.wf_nil : Memory.wf [] = true := rfl

theorem Memory.wf_cons {k : Nat} {v : Byte} {m : Memory} :
    Memory.wf ((k, v) :: m) = true ↔
      k < 2 ^ 64 ∧ v ≠ unlistedByte ∧ (∀ c ∈ m, k < c.1) ∧ Memory.wf m = true := by
  simp [Memory.wf, and_assoc]

/-- An address below every listed one is unlisted. -/
theorem Memory.readByte_below {m : Memory} {a : Nat} (h : ∀ c ∈ m, a < c.1) : m.readByte a = unlistedByte := by
  induction m with
  | nil => rfl
  | cons c m ih =>
    obtain ⟨k, v⟩ := c
    have hk : a < k := h (k, v) (List.mem_cons_self ..)
    rw [Memory.readByte_cons, if_neg (by omega), ih (fun c hc => h c (List.mem_cons_of_mem _ hc))]

theorem Memory.readByte_writeByte_same {m : Memory} (hm : m.wf = true) (a : Nat) (b : Byte) :
    (m.writeByte a b).readByte a = b := by
  induction m with
  | nil => by_cases hb : b = unlistedByte <;> simp [Memory.writeByte, Memory.readByte, hb]
  | cons c m ih =>
    obtain ⟨k, v⟩ := c
    obtain ⟨-, -, hlt, hw⟩ := Memory.wf_cons.1 hm
    by_cases h1 : a < k
    · by_cases hb : b = unlistedByte
      · simp only [Memory.writeByte, if_pos h1, if_pos hb]
        rw [Memory.readByte_cons, if_neg (by omega), Memory.readByte_below, hb]
        exact fun c hc => lt_trans h1 (hlt c hc)
      · simp [Memory.writeByte, h1, hb, Memory.readByte_cons]
    · by_cases h2 : a = k
      · by_cases hb : b = unlistedByte
        · simp only [Memory.writeByte, if_neg h1, if_pos h2, if_pos hb]
          rw [hb, h2]
          exact Memory.readByte_below hlt
        · simp [Memory.writeByte, h2, hb, Memory.readByte_cons]
      · simp only [Memory.writeByte, if_neg h1, if_neg h2, Memory.readByte_cons]
        exact ih hw

theorem Memory.readByte_writeByte_other (m : Memory) {a a' : Nat} (h : a' ≠ a) (b : Byte) :
    (m.writeByte a b).readByte a' = m.readByte a' := by
  induction m with
  | nil => by_cases hb : b = unlistedByte <;> simp [Memory.writeByte, Memory.readByte, hb, h]
  | cons c m ih =>
    obtain ⟨k, v⟩ := c
    by_cases h1 : a < k
    · by_cases hb : b = unlistedByte <;> simp [Memory.writeByte, h1, hb, Memory.readByte_cons, h]
    · by_cases h2 : a = k
      · subst h2
        by_cases hb : b = unlistedByte <;> simp [Memory.writeByte, hb, Memory.readByte_cons, h]
      · simp only [Memory.writeByte, if_neg h1, if_neg h2, Memory.readByte_cons, ih]

/-- Every address listed after a write was listed before or is the written one. -/
theorem Memory.mem_writeByte {m : Memory} {a : Nat} {b : Byte} {c : Host.Cell} (h : c ∈ m.writeByte a b) :
    c ∈ m ∨ c.1 = a := by
  induction m with
  | nil =>
    by_cases hb : b = unlistedByte
    · simp [Memory.writeByte, hb] at h
    · simp only [Memory.writeByte, if_neg hb, List.mem_singleton] at h
      exact .inr (by rw [h])
  | cons d m ih =>
    obtain ⟨k, v⟩ := d
    by_cases h1 : a < k
    · by_cases hb : b = unlistedByte
      · simp only [Memory.writeByte, if_pos h1, if_pos hb] at h
        exact .inl h
      · simp only [Memory.writeByte, if_pos h1, if_neg hb] at h
        rcases List.mem_cons.1 h with rfl | h
        · exact .inr rfl
        · exact .inl h
    · by_cases h2 : a = k
      · by_cases hb : b = unlistedByte
        · simp only [Memory.writeByte, if_neg h1, if_pos h2, if_pos hb] at h
          exact .inl (List.mem_cons_of_mem _ h)
        · simp only [Memory.writeByte, if_neg h1, if_pos h2, if_neg hb] at h
          rcases List.mem_cons.1 h with rfl | h
          · exact .inr rfl
          · exact .inl (List.mem_cons_of_mem _ h)
      · simp only [Memory.writeByte, if_neg h1, if_neg h2] at h
        rcases List.mem_cons.1 h with rfl | h
        · exact .inl (List.mem_cons_self ..)
        · exact (ih h).imp_left (List.mem_cons_of_mem _)

theorem Memory.wf_writeByte {m : Memory} (hm : m.wf = true) {a : Nat} (ha : a < 2 ^ 64) (b : Byte) :
    (m.writeByte a b).wf = true := by
  induction m with
  | nil =>
    by_cases hb : b = unlistedByte
    · simp [Memory.writeByte, hb]
    · simp only [Memory.writeByte, if_neg hb]
      exact Memory.wf_cons.2 ⟨ha, hb, by simp, rfl⟩
  | cons c m ih =>
    obtain ⟨k, v⟩ := c
    obtain ⟨hk, hv, hlt, hw⟩ := Memory.wf_cons.1 hm
    by_cases h1 : a < k
    · by_cases hb : b = unlistedByte
      · simpa only [Memory.writeByte, if_pos h1, if_pos hb] using hm
      · simp only [Memory.writeByte, if_pos h1, if_neg hb]
        refine Memory.wf_cons.2 ⟨ha, hb, fun c hc => ?_, hm⟩
        rcases List.mem_cons.1 hc with rfl | hc
        · exact h1
        · exact lt_trans h1 (hlt c hc)
    · by_cases h2 : a = k
      · by_cases hb : b = unlistedByte
        · simpa only [Memory.writeByte, if_neg h1, if_pos h2, if_pos hb] using hw
        · simp only [Memory.writeByte, if_neg h1, if_pos h2, if_neg hb]
          exact Memory.wf_cons.2 ⟨ha, hb, by rw [h2]; exact hlt, hw⟩
      · simp only [Memory.writeByte, if_neg h1, if_neg h2]
        refine Memory.wf_cons.2 ⟨hk, hv, fun c hc => ?_, ih hw⟩
        rcases Memory.mem_writeByte hc with hc | hc
        · exact hlt c hc
        · omega

@[simp] theorem length_leBytes (n v : Nat) : (leBytes n v).length = n := by
  induction n generalizing v with
  | zero => rfl
  | succ n ih => simp [leBytes, ih]

theorem Memory.wf_writeBytes {m : Memory} (hm : m.wf = true) {a : Nat} {bs : List Byte}
    (ha : a + bs.length ≤ 2 ^ 64) : (m.writeBytes a bs).wf = true := by
  induction bs generalizing m a with
  | nil => exact hm
  | cons b bs ih =>
    simp only [List.length_cons] at ha
    exact ih (Memory.wf_writeByte hm (by omega) b) (by omega)

theorem Memory.wf_writeLE {m : Memory} (hm : m.wf = true) {a n v : Nat} (ha : a + n ≤ 2 ^ 64) :
    (m.writeLE a n v).wf = true :=
  Memory.wf_writeBytes hm (by simpa using ha)

/-- A write of a list of bytes leaves every other byte alone. -/
theorem Memory.readByte_writeBytes_other (m : Memory) {a a' : Nat} {bs : List Byte}
    (h : a' < a ∨ a + bs.length ≤ a') : (m.writeBytes a bs).readByte a' = m.readByte a' := by
  induction bs generalizing m a with
  | nil => rfl
  | cons b bs ih =>
    simp only [List.length_cons] at h
    rw [Memory.writeBytes, ih _ (by omega), Memory.readByte_writeByte_other _ (by omega)]

theorem Memory.readByte_writeLE_other (m : Memory) {a n v a' : Nat} (h : a' < a ∨ a + n ≤ a') :
    (m.writeLE a n v).readByte a' = m.readByte a' :=
  Memory.readByte_writeBytes_other m (by simpa using h)

theorem Memory.readLE_congr {m m' : Memory} {a n : Nat}
    (h : ∀ a', a ≤ a' → a' < a + n → m.readByte a' = m'.readByte a') : m.readLE a n = m'.readLE a n := by
  induction n generalizing a with
  | zero => rfl
  | succ n ih =>
    rw [Memory.readLE, Memory.readLE, h a (Nat.le_refl a) (by omega), ih (fun a' h1 h2 => h a' (by omega) (by omega))]

/-- The bytes of a list of bytes written, read back. -/
theorem Memory.readByte_writeBytes_in {m : Memory} (hm : m.wf = true) {a : Nat} {bs : List Byte}
    (ha : a + bs.length ≤ 2 ^ 64) (k : Nat) (hk : k < bs.length) :
    (m.writeBytes a bs).readByte (a + k) = bs[k] := by
  induction bs generalizing m a k with
  | nil => exact absurd hk (by simp)
  | cons b bs ih =>
    simp only [List.length_cons] at ha hk
    have hw := Memory.wf_writeByte hm (a := a) (by omega) b
    cases k with
    | zero =>
      rw [Memory.writeBytes, Nat.add_zero, Memory.readByte_writeBytes_other _ (by omega)]
      exact Memory.readByte_writeByte_same hm a b
    | succ k =>
      have := ih hw (a := a + 1) (by omega) k (by omega)
      rw [Memory.writeBytes, show a + (k + 1) = a + 1 + k by omega, this]
      rfl

/-- A little-endian read after a little-endian write of the same bytes gives the value back (20_memory.md R60). -/
theorem Memory.readLE_writeLE {m : Memory} (hm : m.wf = true) {a n v : Nat} (ha : a + n ≤ 2 ^ 64) :
    (m.writeLE a n v).readLE a n = v % 256 ^ n := by
  induction n generalizing m a v with
  | zero => simp [Memory.readLE, Nat.mod_one]
  | succ n ih =>
    have hw := Memory.wf_writeByte hm (a := a) (by omega) (BitVec.ofNat 8 v)
    have hhead : (m.writeLE a (n + 1) v).readByte a = BitVec.ofNat 8 v := by
      rw [Memory.writeLE, leBytes, Memory.writeBytes, Memory.readByte_writeBytes_other _ (by omega)]
      exact Memory.readByte_writeByte_same hm a _
    have htail : (m.writeLE a (n + 1) v).readLE (a + 1) n = v / 256 % 256 ^ n :=
      ih hw (a := a + 1) (v := v / 256) (by omega)
    rw [Memory.readLE, hhead, htail, BitVec.toNat_ofNat, show (2 : Nat) ^ 8 = 256 by rfl,
      show 256 ^ (n + 1) = 256 * 256 ^ n by rw [pow_succ, Nat.mul_comm], Nat.mod_mul]

end Sys2Proof.Machine
end

