-- ==== Sys2Proof/Laws/Operands.lean ====
section
/-!
SUPPORT. The signed reading of a register, and what the operand checks let through.
-/

namespace Sys2Proof.Machine

theorem sval_range (v : Word) : -(2 ^ 63) ≤ sval v ∧ sval v < 2 ^ 63 := by
  have := v.isLt
  unfold sval
  split <;> omega

/-- A non-negative signed value is the unsigned one. -/
theorem sval_of_nonneg {v : Word} (h : 0 ≤ sval v) : sval v = v.toNat := by
  have := v.isLt
  unfold sval at *
  split at h <;> omega

theorem sval_toNat_of_nonneg {v : Word} (h : 0 ≤ sval v) : (sval v).toNat = v.toNat := by
  rw [sval_of_nonneg h]; rfl

/-- Bit 63 is the sign (30_encoding.md R93). -/
theorem sval_neg_iff (v : Word) : sval v < 0 ↔ 2 ^ 63 ≤ v.toNat := by
  have := v.isLt
  unfold sval
  split <;> omega

theorem ElemWidth.bytes_pos (b : ElemWidth) : 0 < b.bytes := by cases b <;> decide

theorem mMax_lt (b : ElemWidth) (w : Bool) : mMax b w < 256 ^ b.bytes := by cases b <;> cases w <;> decide

/-- The checks of R161 pass exactly on valid operands. -/
theorem checkInvtab_eq_none {b : ElemWidth} {s : State} : checkInvtab b s = none ↔ TableOperandsValid b s := by
  unfold checkInvtab TableOperandsValid tableEnd
  constructor
  · intro h
    repeat' split at h
    all_goals first
      | contradiction
      | (refine ⟨by omega, by omega, by omega, by omega, by omega⟩)
  · rintro ⟨h1, h2, h3, h4, h5⟩
    rw [if_neg (by omega), if_neg (by omega), if_neg (by omega), if_neg (by omega), if_neg (by omega),
      if_neg (by omega), if_neg (by omega)]

theorem overlaps_iff (lo hi lo' hi' : Int) : overlaps lo hi lo' hi' = true ↔ lo ≤ hi' ∧ lo' ≤ hi := by
  simp [overlaps]

/-- A region is met exactly when one of its addresses lies in the interval. -/
theorem onRegion_iff {regions : List Config.Region} {lo hi : Int} (h : lo ≤ hi) :
    onRegion regions lo hi = true ↔ ∃ r ∈ regions, ∃ a : Int, lo ≤ a ∧ a ≤ hi ∧ r.base ≤ a ∧ a < r.base + r.size := by
  unfold onRegion
  rw [List.any_eq_true]
  refine exists_congr fun r => and_congr_right fun _ => ?_
  rw [Bool.and_eq_true, overlaps_iff, decide_eq_true_iff]
  constructor
  · rintro ⟨h0, h1, h2⟩
    exact ⟨max lo r.base, by omega, by omega, by omega, by omega⟩
  · rintro ⟨a, h1, h2, h3, h4⟩
    omega

/-- The window is met exactly when one of its addresses lies in the interval. -/
theorem onWindow_iff {cfg : Config.Params} {lo hi : Int} (h : lo ≤ hi) :
    onWindow cfg lo hi = true ↔
      ∃ a : Int, lo ≤ a ∧ a ≤ hi ∧ cfg.regBase.toNat ≤ a ∧ a ≤ cfg.regBase.toNat + 0x7F := by
  unfold onWindow
  rw [overlaps_iff]
  constructor
  · rintro ⟨h1, h2⟩
    exact ⟨max lo cfg.regBase.toNat, by omega, by omega, by omega, by omega⟩
  · rintro ⟨a, h1, h2, h3, h4⟩
    omega

/-- A valid table's span is not empty. -/
theorem base_le_tableEnd {b : ElemWidth} {s : State} (h : TableOperandsValid b s) :
    (s.la2.toNat : Int) ≤ tableEnd b s := by
  have hb := b.bytes_pos
  have h2 : (1 : Int) ≤ (sval s.la0 + 1) * b.bytes := by nlinarith [h.1]
  unfold tableEnd
  omega

/-- The placement is refused exactly when a byte of the span does not lie in ordinary memory (R281, 20_memory.md R65). -/
theorem tableRefusal_eq_none {b : ElemWidth} {s : State} (h : TableOperandsValid b s) :
    tableRefusal b s = none ↔ TablePlaced b s := by
  have hspan := base_le_tableEnd h
  have hw : onWindow s.cfg s.la2.toNat (tableEnd b s) = true ↔ SpanOnWindow b s := onWindow_iff hspan
  have hd : onRegion s.cfg.devices s.la2.toNat (tableEnd b s) = true ↔ SpanOnRegion s.cfg.devices b s :=
    onRegion_iff hspan
  have hu : onRegion s.cfg.unkept s.la2.toNat (tableEnd b s) = true ↔ SpanOnRegion s.cfg.unkept b s :=
    onRegion_iff hspan
  unfold tableRefusal TablePlaced
  rw [← hw, ← hd, ← hu]
  repeat' split
  all_goals simp_all

/-- Every entry 0 .. n of a valid table lies inside the address space. -/
theorem entryAddr_inSpace {b : ElemWidth} {s : State} (h : TableOperandsValid b s) {i : Nat} (hi : i ≤ opN s) :
    inSpace b (entryAddr b s i) = true := by
  obtain ⟨hn, -, -, -, hend⟩ := h
  have h0 : (opN s : Int) = sval s.la0 := by unfold opN; omega
  have h1 : ((i : Int) + 1) * b.bytes ≤ (sval s.la0 + 1) * b.bytes := by
    have : (i : Int) + 1 ≤ sval s.la0 + 1 := by omega
    exact mul_le_mul_of_nonneg_right this (by positivity)
  have h2 : ((i : Int) + 1) * b.bytes = i * b.bytes + b.bytes := by ring
  unfold inSpace entryAddr
  rw [decide_eq_true_iff]
  zify
  omega

end Sys2Proof.Machine
end

