-- ==== Sys2Proof/Laws/State.lean ====
section
/-!
SUPPORT. One lemma per field per update of the state, each true by definition, so that no later proof unfolds a
record update. The updates: accept, complete, raiseFault, enterExec, startTable, seedWritten, entryRead,
entryWritten, putEntry, spoilEntry, refreshIrq, resetBlock.
-/

namespace Sys2Proof.Machine

variable (s : State)

@[simp] theorem accept_cfg (v : Word) : (accept v s).cfg = s.cfg := rfl
@[simp] theorem accept_inReset (v : Word) : (accept v s).inReset = s.inReset := rfl
@[simp] theorem accept_ie (v : Word) : (accept v s).ie = s.ie := rfl
@[simp] theorem accept_cmd (v : Word) : (accept v s).cmd = v := rfl
@[simp] theorem accept_busy (v : Word) : (accept v s).busy = true := rfl
@[simp] theorem accept_done (v : Word) : (accept v s).done = false := rfl
@[simp] theorem accept_err (v : Word) : (accept v s).err = false := rfl
@[simp] theorem accept_cmdOvf (v : Word) : (accept v s).cmdOvf = s.cmdOvf := rfl
@[simp] theorem accept_errcode (v : Word) : (accept v s).errcode = .none := rfl
@[simp] theorem accept_arg0 (v : Word) : (accept v s).arg0 = s.arg0 := rfl
@[simp] theorem accept_arg1 (v : Word) : (accept v s).arg1 = s.arg1 := rfl
@[simp] theorem accept_arg2 (v : Word) : (accept v s).arg2 = s.arg2 := rfl
@[simp] theorem accept_resLo (v : Word) : (accept v s).resLo = s.resLo := rfl
@[simp] theorem accept_resHi (v : Word) : (accept v s).resHi = s.resHi := rfl
@[simp] theorem accept_errinfo (v : Word) : (accept v s).errinfo = 0 := rfl
@[simp] theorem accept_progress (v : Word) : (accept v s).progress = 0 := rfl
@[simp] theorem accept_irq (v : Word) : (accept v s).irq = s.irq := rfl
@[simp] theorem accept_phase (v : Word) : (accept v s).phase = .validate := rfl
@[simp] theorem accept_lop (v : Word) : (accept v s).lop = v := rfl
@[simp] theorem accept_la0 (v : Word) : (accept v s).la0 = s.arg0 := rfl
@[simp] theorem accept_la1 (v : Word) : (accept v s).la1 = s.arg1 := rfl
@[simp] theorem accept_la2 (v : Word) : (accept v s).la2 = s.arg2 := rfl
@[simp] theorem accept_idx (v : Word) : (accept v s).idx = 0 := rfl
@[simp] theorem accept_tmpv (v : Word) : (accept v s).tmpv = s.tmpv := rfl
@[simp] theorem accept_seq (v : Word) : (accept v s).seq = s.seq := rfl
@[simp] theorem accept_mem (v : Word) : (accept v s).mem = s.mem := rfl
@[simp] theorem accept_memOld (v : Word) : (accept v s).memOld = s.mem := rfl
@[simp] theorem accept_hostT (v : Word) : (accept v s).hostT = s.hostT := rfl
@[simp] theorem accept_agentData (v : Word) : (accept v s).agentData = s.agentData := rfl
@[simp] theorem accept_bus (v : Word) : (accept v s).bus = s.bus := rfl
@[simp] theorem accept_draws (v : Word) : (accept v s).draws = s.draws := rfl
@[simp] theorem accept_schedule (v : Word) : (accept v s).schedule = s.schedule := rfl

@[simp] theorem complete_cfg (r : Nat) : (complete r s).cfg = s.cfg := rfl
@[simp] theorem complete_inReset (r : Nat) : (complete r s).inReset = s.inReset := rfl
@[simp] theorem complete_ie (r : Nat) : (complete r s).ie = s.ie := rfl
@[simp] theorem complete_cmd (r : Nat) : (complete r s).cmd = s.cmd := rfl
@[simp] theorem complete_busy (r : Nat) : (complete r s).busy = false := rfl
@[simp] theorem complete_done (r : Nat) : (complete r s).done = true := rfl
@[simp] theorem complete_err (r : Nat) : (complete r s).err = false := rfl
@[simp] theorem complete_cmdOvf (r : Nat) : (complete r s).cmdOvf = s.cmdOvf := rfl
@[simp] theorem complete_errcode (r : Nat) : (complete r s).errcode = .none := rfl
@[simp] theorem complete_arg0 (r : Nat) : (complete r s).arg0 = s.arg0 := rfl
@[simp] theorem complete_arg1 (r : Nat) : (complete r s).arg1 = s.arg1 := rfl
@[simp] theorem complete_arg2 (r : Nat) : (complete r s).arg2 = s.arg2 := rfl
@[simp] theorem complete_resLo (r : Nat) : (complete r s).resLo = BitVec.ofNat 64 r := rfl
@[simp] theorem complete_resHi (r : Nat) : (complete r s).resHi = BitVec.ofNat 64 (r / 2 ^ 64) := rfl
@[simp] theorem complete_errinfo (r : Nat) : (complete r s).errinfo = s.errinfo := rfl
@[simp] theorem complete_progress (r : Nat) : (complete r s).progress = s.progress := rfl
@[simp] theorem complete_irq (r : Nat) : (complete r s).irq = s.ie := rfl
@[simp] theorem complete_phase (r : Nat) : (complete r s).phase = .idle := rfl
@[simp] theorem complete_lop (r : Nat) : (complete r s).lop = s.lop := rfl
@[simp] theorem complete_la0 (r : Nat) : (complete r s).la0 = s.la0 := rfl
@[simp] theorem complete_la1 (r : Nat) : (complete r s).la1 = s.la1 := rfl
@[simp] theorem complete_la2 (r : Nat) : (complete r s).la2 = s.la2 := rfl
@[simp] theorem complete_idx (r : Nat) : (complete r s).idx = s.idx := rfl
@[simp] theorem complete_tmpv (r : Nat) : (complete r s).tmpv = s.tmpv := rfl
@[simp] theorem complete_seq (r : Nat) : (complete r s).seq = s.seq := rfl
@[simp] theorem complete_mem (r : Nat) : (complete r s).mem = s.mem := rfl
@[simp] theorem complete_memOld (r : Nat) : (complete r s).memOld = s.memOld := rfl
@[simp] theorem complete_hostT (r : Nat) : (complete r s).hostT = s.hostT := rfl
@[simp] theorem complete_agentData (r : Nat) : (complete r s).agentData = s.agentData := rfl
@[simp] theorem complete_bus (r : Nat) : (complete r s).bus = s.bus := rfl
@[simp] theorem complete_draws (r : Nat) : (complete r s).draws = s.draws := rfl
@[simp] theorem complete_schedule (r : Nat) : (complete r s).schedule = s.schedule := rfl

@[simp] theorem raiseFault_cfg (c : ErrCode) (w : Word) : (raiseFault c w s).cfg = s.cfg := rfl
@[simp] theorem raiseFault_inReset (c : ErrCode) (w : Word) : (raiseFault c w s).inReset = s.inReset := rfl
@[simp] theorem raiseFault_ie (c : ErrCode) (w : Word) : (raiseFault c w s).ie = s.ie := rfl
@[simp] theorem raiseFault_cmd (c : ErrCode) (w : Word) : (raiseFault c w s).cmd = s.cmd := rfl
@[simp] theorem raiseFault_busy (c : ErrCode) (w : Word) : (raiseFault c w s).busy = false := rfl
@[simp] theorem raiseFault_done (c : ErrCode) (w : Word) : (raiseFault c w s).done = true := rfl
@[simp] theorem raiseFault_err (c : ErrCode) (w : Word) : (raiseFault c w s).err = true := rfl
@[simp] theorem raiseFault_cmdOvf (c : ErrCode) (w : Word) : (raiseFault c w s).cmdOvf = s.cmdOvf := rfl
@[simp] theorem raiseFault_errcode (c : ErrCode) (w : Word) : (raiseFault c w s).errcode = c := rfl
@[simp] theorem raiseFault_arg0 (c : ErrCode) (w : Word) : (raiseFault c w s).arg0 = s.arg0 := rfl
@[simp] theorem raiseFault_arg1 (c : ErrCode) (w : Word) : (raiseFault c w s).arg1 = s.arg1 := rfl
@[simp] theorem raiseFault_arg2 (c : ErrCode) (w : Word) : (raiseFault c w s).arg2 = s.arg2 := rfl
@[simp] theorem raiseFault_resLo (c : ErrCode) (w : Word) : (raiseFault c w s).resLo = s.resLo := rfl
@[simp] theorem raiseFault_resHi (c : ErrCode) (w : Word) : (raiseFault c w s).resHi = s.resHi := rfl
@[simp] theorem raiseFault_errinfo (c : ErrCode) (w : Word) : (raiseFault c w s).errinfo = w := rfl
@[simp] theorem raiseFault_progress (c : ErrCode) (w : Word) : (raiseFault c w s).progress = s.progress := rfl
@[simp] theorem raiseFault_irq (c : ErrCode) (w : Word) : (raiseFault c w s).irq = s.ie := rfl
@[simp] theorem raiseFault_phase (c : ErrCode) (w : Word) : (raiseFault c w s).phase = .idle := rfl
@[simp] theorem raiseFault_lop (c : ErrCode) (w : Word) : (raiseFault c w s).lop = s.lop := rfl
@[simp] theorem raiseFault_la0 (c : ErrCode) (w : Word) : (raiseFault c w s).la0 = s.la0 := rfl
@[simp] theorem raiseFault_la1 (c : ErrCode) (w : Word) : (raiseFault c w s).la1 = s.la1 := rfl
@[simp] theorem raiseFault_la2 (c : ErrCode) (w : Word) : (raiseFault c w s).la2 = s.la2 := rfl
@[simp] theorem raiseFault_idx (c : ErrCode) (w : Word) : (raiseFault c w s).idx = s.idx := rfl
@[simp] theorem raiseFault_tmpv (c : ErrCode) (w : Word) : (raiseFault c w s).tmpv = s.tmpv := rfl
@[simp] theorem raiseFault_seq (c : ErrCode) (w : Word) : (raiseFault c w s).seq = s.seq := rfl
@[simp] theorem raiseFault_mem (c : ErrCode) (w : Word) : (raiseFault c w s).mem = s.mem := rfl
@[simp] theorem raiseFault_memOld (c : ErrCode) (w : Word) : (raiseFault c w s).memOld = s.memOld := rfl
@[simp] theorem raiseFault_hostT (c : ErrCode) (w : Word) : (raiseFault c w s).hostT = s.hostT := rfl
@[simp] theorem raiseFault_agentData (c : ErrCode) (w : Word) : (raiseFault c w s).agentData = s.agentData := rfl
@[simp] theorem raiseFault_bus (c : ErrCode) (w : Word) : (raiseFault c w s).bus = s.bus := rfl
@[simp] theorem raiseFault_draws (c : ErrCode) (w : Word) : (raiseFault c w s).draws = s.draws := rfl
@[simp] theorem raiseFault_schedule (c : ErrCode) (w : Word) : (raiseFault c w s).schedule = s.schedule := rfl

@[simp] theorem enterExec_cfg : (enterExec s).cfg = s.cfg := rfl
@[simp] theorem enterExec_inReset : (enterExec s).inReset = s.inReset := rfl
@[simp] theorem enterExec_ie : (enterExec s).ie = s.ie := rfl
@[simp] theorem enterExec_cmd : (enterExec s).cmd = s.cmd := rfl
@[simp] theorem enterExec_busy : (enterExec s).busy = s.busy := rfl
@[simp] theorem enterExec_done : (enterExec s).done = s.done := rfl
@[simp] theorem enterExec_err : (enterExec s).err = s.err := rfl
@[simp] theorem enterExec_cmdOvf : (enterExec s).cmdOvf = s.cmdOvf := rfl
@[simp] theorem enterExec_errcode : (enterExec s).errcode = s.errcode := rfl
@[simp] theorem enterExec_arg0 : (enterExec s).arg0 = s.arg0 := rfl
@[simp] theorem enterExec_arg1 : (enterExec s).arg1 = s.arg1 := rfl
@[simp] theorem enterExec_arg2 : (enterExec s).arg2 = s.arg2 := rfl
@[simp] theorem enterExec_resLo : (enterExec s).resLo = s.resLo := rfl
@[simp] theorem enterExec_resHi : (enterExec s).resHi = s.resHi := rfl
@[simp] theorem enterExec_errinfo : (enterExec s).errinfo = s.errinfo := rfl
@[simp] theorem enterExec_progress : (enterExec s).progress = s.progress := rfl
@[simp] theorem enterExec_irq : (enterExec s).irq = s.irq := rfl
@[simp] theorem enterExec_phase : (enterExec s).phase = .exec := rfl
@[simp] theorem enterExec_lop : (enterExec s).lop = s.lop := rfl
@[simp] theorem enterExec_la0 : (enterExec s).la0 = s.la0 := rfl
@[simp] theorem enterExec_la1 : (enterExec s).la1 = s.la1 := rfl
@[simp] theorem enterExec_la2 : (enterExec s).la2 = s.la2 := rfl
@[simp] theorem enterExec_idx : (enterExec s).idx = s.idx := rfl
@[simp] theorem enterExec_tmpv : (enterExec s).tmpv = s.tmpv := rfl
@[simp] theorem enterExec_seq : (enterExec s).seq = s.seq := rfl
@[simp] theorem enterExec_mem : (enterExec s).mem = s.mem := rfl
@[simp] theorem enterExec_memOld : (enterExec s).memOld = s.memOld := rfl
@[simp] theorem enterExec_hostT : (enterExec s).hostT = s.hostT := rfl
@[simp] theorem enterExec_agentData : (enterExec s).agentData = s.agentData := rfl
@[simp] theorem enterExec_bus : (enterExec s).bus = s.bus := rfl
@[simp] theorem enterExec_draws : (enterExec s).draws = s.draws := rfl
@[simp] theorem enterExec_schedule : (enterExec s).schedule = s.schedule := rfl

@[simp] theorem startTable_cfg : (startTable s).cfg = s.cfg := rfl
@[simp] theorem startTable_inReset : (startTable s).inReset = s.inReset := rfl
@[simp] theorem startTable_ie : (startTable s).ie = s.ie := rfl
@[simp] theorem startTable_cmd : (startTable s).cmd = s.cmd := rfl
@[simp] theorem startTable_busy : (startTable s).busy = s.busy := rfl
@[simp] theorem startTable_done : (startTable s).done = s.done := rfl
@[simp] theorem startTable_err : (startTable s).err = s.err := rfl
@[simp] theorem startTable_cmdOvf : (startTable s).cmdOvf = s.cmdOvf := rfl
@[simp] theorem startTable_errcode : (startTable s).errcode = s.errcode := rfl
@[simp] theorem startTable_arg0 : (startTable s).arg0 = s.arg0 := rfl
@[simp] theorem startTable_arg1 : (startTable s).arg1 = s.arg1 := rfl
@[simp] theorem startTable_arg2 : (startTable s).arg2 = s.arg2 := rfl
@[simp] theorem startTable_resLo : (startTable s).resLo = s.resLo := rfl
@[simp] theorem startTable_resHi : (startTable s).resHi = s.resHi := rfl
@[simp] theorem startTable_errinfo : (startTable s).errinfo = s.errinfo := rfl
@[simp] theorem startTable_progress : (startTable s).progress = s.progress := rfl
@[simp] theorem startTable_irq : (startTable s).irq = s.irq := rfl
@[simp] theorem startTable_phase : (startTable s).phase = .exec := rfl
@[simp] theorem startTable_lop : (startTable s).lop = s.lop := rfl
@[simp] theorem startTable_la0 : (startTable s).la0 = s.la0 := rfl
@[simp] theorem startTable_la1 : (startTable s).la1 = s.la1 := rfl
@[simp] theorem startTable_la2 : (startTable s).la2 = s.la2 := rfl
@[simp] theorem startTable_idx : (startTable s).idx = 1 := rfl
@[simp] theorem startTable_tmpv : (startTable s).tmpv = s.tmpv := rfl
@[simp] theorem startTable_seq : (startTable s).seq = .w1 := rfl
@[simp] theorem startTable_mem : (startTable s).mem = s.mem := rfl
@[simp] theorem startTable_memOld : (startTable s).memOld = s.memOld := rfl
@[simp] theorem startTable_hostT : (startTable s).hostT = s.hostT := rfl
@[simp] theorem startTable_agentData : (startTable s).agentData = s.agentData := rfl
@[simp] theorem startTable_bus : (startTable s).bus = s.bus := rfl
@[simp] theorem startTable_draws : (startTable s).draws = s.draws := rfl
@[simp] theorem startTable_schedule : (startTable s).schedule = s.schedule := rfl

@[simp] theorem seedWritten_cfg : (seedWritten s).cfg = s.cfg := rfl
@[simp] theorem seedWritten_inReset : (seedWritten s).inReset = s.inReset := rfl
@[simp] theorem seedWritten_ie : (seedWritten s).ie = s.ie := rfl
@[simp] theorem seedWritten_cmd : (seedWritten s).cmd = s.cmd := rfl
@[simp] theorem seedWritten_busy : (seedWritten s).busy = s.busy := rfl
@[simp] theorem seedWritten_done : (seedWritten s).done = s.done := rfl
@[simp] theorem seedWritten_err : (seedWritten s).err = s.err := rfl
@[simp] theorem seedWritten_cmdOvf : (seedWritten s).cmdOvf = s.cmdOvf := rfl
@[simp] theorem seedWritten_errcode : (seedWritten s).errcode = s.errcode := rfl
@[simp] theorem seedWritten_arg0 : (seedWritten s).arg0 = s.arg0 := rfl
@[simp] theorem seedWritten_arg1 : (seedWritten s).arg1 = s.arg1 := rfl
@[simp] theorem seedWritten_arg2 : (seedWritten s).arg2 = s.arg2 := rfl
@[simp] theorem seedWritten_resLo : (seedWritten s).resLo = s.resLo := rfl
@[simp] theorem seedWritten_resHi : (seedWritten s).resHi = s.resHi := rfl
@[simp] theorem seedWritten_errinfo : (seedWritten s).errinfo = s.errinfo := rfl
@[simp] theorem seedWritten_progress : (seedWritten s).progress = 1 := rfl
@[simp] theorem seedWritten_irq : (seedWritten s).irq = s.irq := rfl
@[simp] theorem seedWritten_phase : (seedWritten s).phase = s.phase := rfl
@[simp] theorem seedWritten_lop : (seedWritten s).lop = s.lop := rfl
@[simp] theorem seedWritten_la0 : (seedWritten s).la0 = s.la0 := rfl
@[simp] theorem seedWritten_la1 : (seedWritten s).la1 = s.la1 := rfl
@[simp] theorem seedWritten_la2 : (seedWritten s).la2 = s.la2 := rfl
@[simp] theorem seedWritten_idx : (seedWritten s).idx = 2 := rfl
@[simp] theorem seedWritten_tmpv : (seedWritten s).tmpv = s.tmpv := rfl
@[simp] theorem seedWritten_seq : (seedWritten s).seq = .ra := rfl
@[simp] theorem seedWritten_mem : (seedWritten s).mem = s.mem := rfl
@[simp] theorem seedWritten_memOld : (seedWritten s).memOld = s.memOld := rfl
@[simp] theorem seedWritten_hostT : (seedWritten s).hostT = s.hostT := rfl
@[simp] theorem seedWritten_agentData : (seedWritten s).agentData = s.agentData := rfl
@[simp] theorem seedWritten_bus : (seedWritten s).bus = s.bus := rfl
@[simp] theorem seedWritten_draws : (seedWritten s).draws = s.draws := rfl
@[simp] theorem seedWritten_schedule : (seedWritten s).schedule = s.schedule := rfl

@[simp] theorem entryRead_cfg (v : Nat) : (entryRead v s).cfg = s.cfg := rfl
@[simp] theorem entryRead_inReset (v : Nat) : (entryRead v s).inReset = s.inReset := rfl
@[simp] theorem entryRead_ie (v : Nat) : (entryRead v s).ie = s.ie := rfl
@[simp] theorem entryRead_cmd (v : Nat) : (entryRead v s).cmd = s.cmd := rfl
@[simp] theorem entryRead_busy (v : Nat) : (entryRead v s).busy = s.busy := rfl
@[simp] theorem entryRead_done (v : Nat) : (entryRead v s).done = s.done := rfl
@[simp] theorem entryRead_err (v : Nat) : (entryRead v s).err = s.err := rfl
@[simp] theorem entryRead_cmdOvf (v : Nat) : (entryRead v s).cmdOvf = s.cmdOvf := rfl
@[simp] theorem entryRead_errcode (v : Nat) : (entryRead v s).errcode = s.errcode := rfl
@[simp] theorem entryRead_arg0 (v : Nat) : (entryRead v s).arg0 = s.arg0 := rfl
@[simp] theorem entryRead_arg1 (v : Nat) : (entryRead v s).arg1 = s.arg1 := rfl
@[simp] theorem entryRead_arg2 (v : Nat) : (entryRead v s).arg2 = s.arg2 := rfl
@[simp] theorem entryRead_resLo (v : Nat) : (entryRead v s).resLo = s.resLo := rfl
@[simp] theorem entryRead_resHi (v : Nat) : (entryRead v s).resHi = s.resHi := rfl
@[simp] theorem entryRead_errinfo (v : Nat) : (entryRead v s).errinfo = s.errinfo := rfl
@[simp] theorem entryRead_progress (v : Nat) : (entryRead v s).progress = s.progress := rfl
@[simp] theorem entryRead_irq (v : Nat) : (entryRead v s).irq = s.irq := rfl
@[simp] theorem entryRead_phase (v : Nat) : (entryRead v s).phase = s.phase := rfl
@[simp] theorem entryRead_lop (v : Nat) : (entryRead v s).lop = s.lop := rfl
@[simp] theorem entryRead_la0 (v : Nat) : (entryRead v s).la0 = s.la0 := rfl
@[simp] theorem entryRead_la1 (v : Nat) : (entryRead v s).la1 = s.la1 := rfl
@[simp] theorem entryRead_la2 (v : Nat) : (entryRead v s).la2 = s.la2 := rfl
@[simp] theorem entryRead_idx (v : Nat) : (entryRead v s).idx = s.idx := rfl
@[simp] theorem entryRead_tmpv (v : Nat) : (entryRead v s).tmpv = BitVec.ofNat 64 v := rfl
@[simp] theorem entryRead_seq (v : Nat) : (entryRead v s).seq = .wa := rfl
@[simp] theorem entryRead_mem (v : Nat) : (entryRead v s).mem = s.mem := rfl
@[simp] theorem entryRead_memOld (v : Nat) : (entryRead v s).memOld = s.memOld := rfl
@[simp] theorem entryRead_hostT (v : Nat) : (entryRead v s).hostT = s.hostT := rfl
@[simp] theorem entryRead_agentData (v : Nat) : (entryRead v s).agentData = s.agentData := rfl
@[simp] theorem entryRead_bus (v : Nat) : (entryRead v s).bus = s.bus := rfl
@[simp] theorem entryRead_draws (v : Nat) : (entryRead v s).draws = s.draws := rfl
@[simp] theorem entryRead_schedule (v : Nat) : (entryRead v s).schedule = s.schedule := rfl

@[simp] theorem entryWritten_cfg : (entryWritten s).cfg = s.cfg := rfl
@[simp] theorem entryWritten_inReset : (entryWritten s).inReset = s.inReset := rfl
@[simp] theorem entryWritten_ie : (entryWritten s).ie = s.ie := rfl
@[simp] theorem entryWritten_cmd : (entryWritten s).cmd = s.cmd := rfl
@[simp] theorem entryWritten_busy : (entryWritten s).busy = s.busy := rfl
@[simp] theorem entryWritten_done : (entryWritten s).done = s.done := rfl
@[simp] theorem entryWritten_err : (entryWritten s).err = s.err := rfl
@[simp] theorem entryWritten_cmdOvf : (entryWritten s).cmdOvf = s.cmdOvf := rfl
@[simp] theorem entryWritten_errcode : (entryWritten s).errcode = s.errcode := rfl
@[simp] theorem entryWritten_arg0 : (entryWritten s).arg0 = s.arg0 := rfl
@[simp] theorem entryWritten_arg1 : (entryWritten s).arg1 = s.arg1 := rfl
@[simp] theorem entryWritten_arg2 : (entryWritten s).arg2 = s.arg2 := rfl
@[simp] theorem entryWritten_resLo : (entryWritten s).resLo = s.resLo := rfl
@[simp] theorem entryWritten_resHi : (entryWritten s).resHi = s.resHi := rfl
@[simp] theorem entryWritten_errinfo : (entryWritten s).errinfo = s.errinfo := rfl
@[simp] theorem entryWritten_progress : (entryWritten s).progress = s.idx := rfl
@[simp] theorem entryWritten_irq : (entryWritten s).irq = s.irq := rfl
@[simp] theorem entryWritten_phase : (entryWritten s).phase = s.phase := rfl
@[simp] theorem entryWritten_lop : (entryWritten s).lop = s.lop := rfl
@[simp] theorem entryWritten_la0 : (entryWritten s).la0 = s.la0 := rfl
@[simp] theorem entryWritten_la1 : (entryWritten s).la1 = s.la1 := rfl
@[simp] theorem entryWritten_la2 : (entryWritten s).la2 = s.la2 := rfl
@[simp] theorem entryWritten_idx : (entryWritten s).idx = s.idx + 1 := rfl
@[simp] theorem entryWritten_tmpv : (entryWritten s).tmpv = s.tmpv := rfl
@[simp] theorem entryWritten_seq : (entryWritten s).seq = .ra := rfl
@[simp] theorem entryWritten_mem : (entryWritten s).mem = s.mem := rfl
@[simp] theorem entryWritten_memOld : (entryWritten s).memOld = s.memOld := rfl
@[simp] theorem entryWritten_hostT : (entryWritten s).hostT = s.hostT := rfl
@[simp] theorem entryWritten_agentData : (entryWritten s).agentData = s.agentData := rfl
@[simp] theorem entryWritten_bus : (entryWritten s).bus = s.bus := rfl
@[simp] theorem entryWritten_draws : (entryWritten s).draws = s.draws := rfl
@[simp] theorem entryWritten_schedule : (entryWritten s).schedule = s.schedule := rfl

@[simp] theorem putEntry_cfg (b : ElemWidth) (a v : Nat) : (putEntry b a v s).cfg = s.cfg := rfl
@[simp] theorem putEntry_inReset (b : ElemWidth) (a v : Nat) : (putEntry b a v s).inReset = s.inReset := rfl
@[simp] theorem putEntry_ie (b : ElemWidth) (a v : Nat) : (putEntry b a v s).ie = s.ie := rfl
@[simp] theorem putEntry_cmd (b : ElemWidth) (a v : Nat) : (putEntry b a v s).cmd = s.cmd := rfl
@[simp] theorem putEntry_busy (b : ElemWidth) (a v : Nat) : (putEntry b a v s).busy = s.busy := rfl
@[simp] theorem putEntry_done (b : ElemWidth) (a v : Nat) : (putEntry b a v s).done = s.done := rfl
@[simp] theorem putEntry_err (b : ElemWidth) (a v : Nat) : (putEntry b a v s).err = s.err := rfl
@[simp] theorem putEntry_cmdOvf (b : ElemWidth) (a v : Nat) : (putEntry b a v s).cmdOvf = s.cmdOvf := rfl
@[simp] theorem putEntry_errcode (b : ElemWidth) (a v : Nat) : (putEntry b a v s).errcode = s.errcode := rfl
@[simp] theorem putEntry_arg0 (b : ElemWidth) (a v : Nat) : (putEntry b a v s).arg0 = s.arg0 := rfl
@[simp] theorem putEntry_arg1 (b : ElemWidth) (a v : Nat) : (putEntry b a v s).arg1 = s.arg1 := rfl
@[simp] theorem putEntry_arg2 (b : ElemWidth) (a v : Nat) : (putEntry b a v s).arg2 = s.arg2 := rfl
@[simp] theorem putEntry_resLo (b : ElemWidth) (a v : Nat) : (putEntry b a v s).resLo = s.resLo := rfl
@[simp] theorem putEntry_resHi (b : ElemWidth) (a v : Nat) : (putEntry b a v s).resHi = s.resHi := rfl
@[simp] theorem putEntry_errinfo (b : ElemWidth) (a v : Nat) : (putEntry b a v s).errinfo = s.errinfo := rfl
@[simp] theorem putEntry_progress (b : ElemWidth) (a v : Nat) : (putEntry b a v s).progress = s.progress := rfl
@[simp] theorem putEntry_irq (b : ElemWidth) (a v : Nat) : (putEntry b a v s).irq = s.irq := rfl
@[simp] theorem putEntry_phase (b : ElemWidth) (a v : Nat) : (putEntry b a v s).phase = s.phase := rfl
@[simp] theorem putEntry_lop (b : ElemWidth) (a v : Nat) : (putEntry b a v s).lop = s.lop := rfl
@[simp] theorem putEntry_la0 (b : ElemWidth) (a v : Nat) : (putEntry b a v s).la0 = s.la0 := rfl
@[simp] theorem putEntry_la1 (b : ElemWidth) (a v : Nat) : (putEntry b a v s).la1 = s.la1 := rfl
@[simp] theorem putEntry_la2 (b : ElemWidth) (a v : Nat) : (putEntry b a v s).la2 = s.la2 := rfl
@[simp] theorem putEntry_idx (b : ElemWidth) (a v : Nat) : (putEntry b a v s).idx = s.idx := rfl
@[simp] theorem putEntry_tmpv (b : ElemWidth) (a v : Nat) : (putEntry b a v s).tmpv = s.tmpv := rfl
@[simp] theorem putEntry_seq (b : ElemWidth) (a v : Nat) : (putEntry b a v s).seq = s.seq := rfl
@[simp] theorem putEntry_mem (b : ElemWidth) (a v : Nat) : (putEntry b a v s).mem = s.mem.writeLE a b.bytes v := rfl
@[simp] theorem putEntry_memOld (b : ElemWidth) (a v : Nat) : (putEntry b a v s).memOld = s.memOld := rfl
@[simp] theorem putEntry_hostT (b : ElemWidth) (a v : Nat) : (putEntry b a v s).hostT = s.hostT := rfl
@[simp] theorem putEntry_agentData (b : ElemWidth) (a v : Nat) : (putEntry b a v s).agentData = s.agentData := rfl
@[simp] theorem putEntry_bus (b : ElemWidth) (a v : Nat) : (putEntry b a v s).bus = s.bus := rfl
@[simp] theorem putEntry_draws (b : ElemWidth) (a v : Nat) : (putEntry b a v s).draws = s.draws := rfl
@[simp] theorem putEntry_schedule (b : ElemWidth) (a v : Nat) : (putEntry b a v s).schedule = s.schedule := rfl

@[simp] theorem spoilEntry_cfg (b : ElemWidth) (a : Nat) : (spoilEntry b a s).cfg = s.cfg := rfl
@[simp] theorem spoilEntry_inReset (b : ElemWidth) (a : Nat) : (spoilEntry b a s).inReset = s.inReset := rfl
@[simp] theorem spoilEntry_ie (b : ElemWidth) (a : Nat) : (spoilEntry b a s).ie = s.ie := rfl
@[simp] theorem spoilEntry_cmd (b : ElemWidth) (a : Nat) : (spoilEntry b a s).cmd = s.cmd := rfl
@[simp] theorem spoilEntry_busy (b : ElemWidth) (a : Nat) : (spoilEntry b a s).busy = s.busy := rfl
@[simp] theorem spoilEntry_done (b : ElemWidth) (a : Nat) : (spoilEntry b a s).done = s.done := rfl
@[simp] theorem spoilEntry_err (b : ElemWidth) (a : Nat) : (spoilEntry b a s).err = s.err := rfl
@[simp] theorem spoilEntry_cmdOvf (b : ElemWidth) (a : Nat) : (spoilEntry b a s).cmdOvf = s.cmdOvf := rfl
@[simp] theorem spoilEntry_errcode (b : ElemWidth) (a : Nat) : (spoilEntry b a s).errcode = s.errcode := rfl
@[simp] theorem spoilEntry_arg0 (b : ElemWidth) (a : Nat) : (spoilEntry b a s).arg0 = s.arg0 := rfl
@[simp] theorem spoilEntry_arg1 (b : ElemWidth) (a : Nat) : (spoilEntry b a s).arg1 = s.arg1 := rfl
@[simp] theorem spoilEntry_arg2 (b : ElemWidth) (a : Nat) : (spoilEntry b a s).arg2 = s.arg2 := rfl
@[simp] theorem spoilEntry_resLo (b : ElemWidth) (a : Nat) : (spoilEntry b a s).resLo = s.resLo := rfl
@[simp] theorem spoilEntry_resHi (b : ElemWidth) (a : Nat) : (spoilEntry b a s).resHi = s.resHi := rfl
@[simp] theorem spoilEntry_errinfo (b : ElemWidth) (a : Nat) : (spoilEntry b a s).errinfo = s.errinfo := rfl
@[simp] theorem spoilEntry_progress (b : ElemWidth) (a : Nat) : (spoilEntry b a s).progress = s.progress := rfl
@[simp] theorem spoilEntry_irq (b : ElemWidth) (a : Nat) : (spoilEntry b a s).irq = s.irq := rfl
@[simp] theorem spoilEntry_phase (b : ElemWidth) (a : Nat) : (spoilEntry b a s).phase = s.phase := rfl
@[simp] theorem spoilEntry_lop (b : ElemWidth) (a : Nat) : (spoilEntry b a s).lop = s.lop := rfl
@[simp] theorem spoilEntry_la0 (b : ElemWidth) (a : Nat) : (spoilEntry b a s).la0 = s.la0 := rfl
@[simp] theorem spoilEntry_la1 (b : ElemWidth) (a : Nat) : (spoilEntry b a s).la1 = s.la1 := rfl
@[simp] theorem spoilEntry_la2 (b : ElemWidth) (a : Nat) : (spoilEntry b a s).la2 = s.la2 := rfl
@[simp] theorem spoilEntry_idx (b : ElemWidth) (a : Nat) : (spoilEntry b a s).idx = s.idx := rfl
@[simp] theorem spoilEntry_tmpv (b : ElemWidth) (a : Nat) : (spoilEntry b a s).tmpv = s.tmpv := rfl
@[simp] theorem spoilEntry_seq (b : ElemWidth) (a : Nat) : (spoilEntry b a s).seq = s.seq := rfl
@[simp] theorem spoilEntry_mem (b : ElemWidth) (a : Nat) : (spoilEntry b a s).mem = s.mem.writeBytes a (drawnBytes s.draws b.bytes) := rfl
@[simp] theorem spoilEntry_memOld (b : ElemWidth) (a : Nat) : (spoilEntry b a s).memOld = s.memOld := rfl
@[simp] theorem spoilEntry_hostT (b : ElemWidth) (a : Nat) : (spoilEntry b a s).hostT = s.hostT := rfl
@[simp] theorem spoilEntry_agentData (b : ElemWidth) (a : Nat) : (spoilEntry b a s).agentData = s.agentData := rfl
@[simp] theorem spoilEntry_bus (b : ElemWidth) (a : Nat) : (spoilEntry b a s).bus = s.bus := rfl
@[simp] theorem spoilEntry_draws (b : ElemWidth) (a : Nat) : (spoilEntry b a s).draws = s.draws + b.bytes := rfl
@[simp] theorem spoilEntry_schedule (b : ElemWidth) (a : Nat) : (spoilEntry b a s).schedule = s.schedule := rfl

@[simp] theorem refreshIrq_cfg : (refreshIrq s).cfg = s.cfg := rfl
@[simp] theorem refreshIrq_inReset : (refreshIrq s).inReset = s.inReset := rfl
@[simp] theorem refreshIrq_ie : (refreshIrq s).ie = s.ie := rfl
@[simp] theorem refreshIrq_cmd : (refreshIrq s).cmd = s.cmd := rfl
@[simp] theorem refreshIrq_busy : (refreshIrq s).busy = s.busy := rfl
@[simp] theorem refreshIrq_done : (refreshIrq s).done = s.done := rfl
@[simp] theorem refreshIrq_err : (refreshIrq s).err = s.err := rfl
@[simp] theorem refreshIrq_cmdOvf : (refreshIrq s).cmdOvf = s.cmdOvf := rfl
@[simp] theorem refreshIrq_errcode : (refreshIrq s).errcode = s.errcode := rfl
@[simp] theorem refreshIrq_arg0 : (refreshIrq s).arg0 = s.arg0 := rfl
@[simp] theorem refreshIrq_arg1 : (refreshIrq s).arg1 = s.arg1 := rfl
@[simp] theorem refreshIrq_arg2 : (refreshIrq s).arg2 = s.arg2 := rfl
@[simp] theorem refreshIrq_resLo : (refreshIrq s).resLo = s.resLo := rfl
@[simp] theorem refreshIrq_resHi : (refreshIrq s).resHi = s.resHi := rfl
@[simp] theorem refreshIrq_errinfo : (refreshIrq s).errinfo = s.errinfo := rfl
@[simp] theorem refreshIrq_progress : (refreshIrq s).progress = s.progress := rfl
@[simp] theorem refreshIrq_irq : (refreshIrq s).irq = (s.done && s.ie) := rfl
@[simp] theorem refreshIrq_phase : (refreshIrq s).phase = s.phase := rfl
@[simp] theorem refreshIrq_lop : (refreshIrq s).lop = s.lop := rfl
@[simp] theorem refreshIrq_la0 : (refreshIrq s).la0 = s.la0 := rfl
@[simp] theorem refreshIrq_la1 : (refreshIrq s).la1 = s.la1 := rfl
@[simp] theorem refreshIrq_la2 : (refreshIrq s).la2 = s.la2 := rfl
@[simp] theorem refreshIrq_idx : (refreshIrq s).idx = s.idx := rfl
@[simp] theorem refreshIrq_tmpv : (refreshIrq s).tmpv = s.tmpv := rfl
@[simp] theorem refreshIrq_seq : (refreshIrq s).seq = s.seq := rfl
@[simp] theorem refreshIrq_mem : (refreshIrq s).mem = s.mem := rfl
@[simp] theorem refreshIrq_memOld : (refreshIrq s).memOld = s.memOld := rfl
@[simp] theorem refreshIrq_hostT : (refreshIrq s).hostT = s.hostT := rfl
@[simp] theorem refreshIrq_agentData : (refreshIrq s).agentData = s.agentData := rfl
@[simp] theorem refreshIrq_bus : (refreshIrq s).bus = s.bus := rfl
@[simp] theorem refreshIrq_draws : (refreshIrq s).draws = s.draws := rfl
@[simp] theorem refreshIrq_schedule : (refreshIrq s).schedule = s.schedule := rfl

@[simp] theorem resetBlock_cfg : (resetBlock s).cfg = s.cfg := rfl
@[simp] theorem resetBlock_inReset : (resetBlock s).inReset = s.inReset := rfl
@[simp] theorem resetBlock_ie : (resetBlock s).ie = false := rfl
@[simp] theorem resetBlock_cmd : (resetBlock s).cmd = 0 := rfl
@[simp] theorem resetBlock_busy : (resetBlock s).busy = false := rfl
@[simp] theorem resetBlock_done : (resetBlock s).done = false := rfl
@[simp] theorem resetBlock_err : (resetBlock s).err = false := rfl
@[simp] theorem resetBlock_cmdOvf : (resetBlock s).cmdOvf = false := rfl
@[simp] theorem resetBlock_errcode : (resetBlock s).errcode = .none := rfl
@[simp] theorem resetBlock_arg0 : (resetBlock s).arg0 = 0 := rfl
@[simp] theorem resetBlock_arg1 : (resetBlock s).arg1 = 0 := rfl
@[simp] theorem resetBlock_arg2 : (resetBlock s).arg2 = 0 := rfl
@[simp] theorem resetBlock_resLo : (resetBlock s).resLo = 0 := rfl
@[simp] theorem resetBlock_resHi : (resetBlock s).resHi = 0 := rfl
@[simp] theorem resetBlock_errinfo : (resetBlock s).errinfo = 0 := rfl
@[simp] theorem resetBlock_progress : (resetBlock s).progress = 0 := rfl
@[simp] theorem resetBlock_irq : (resetBlock s).irq = false := rfl
@[simp] theorem resetBlock_phase : (resetBlock s).phase = .idle := rfl
@[simp] theorem resetBlock_lop : (resetBlock s).lop = 0 := rfl
@[simp] theorem resetBlock_la0 : (resetBlock s).la0 = 0 := rfl
@[simp] theorem resetBlock_la1 : (resetBlock s).la1 = 0 := rfl
@[simp] theorem resetBlock_la2 : (resetBlock s).la2 = 0 := rfl
@[simp] theorem resetBlock_idx : (resetBlock s).idx = 0 := rfl
@[simp] theorem resetBlock_tmpv : (resetBlock s).tmpv = 0 := rfl
@[simp] theorem resetBlock_seq : (resetBlock s).seq = .w1 := rfl
@[simp] theorem resetBlock_mem : (resetBlock s).mem = s.mem := rfl
@[simp] theorem resetBlock_memOld : (resetBlock s).memOld = s.memOld := rfl
@[simp] theorem resetBlock_hostT : (resetBlock s).hostT = s.hostT := rfl
@[simp] theorem resetBlock_agentData : (resetBlock s).agentData = s.agentData := rfl
@[simp] theorem resetBlock_bus : (resetBlock s).bus = s.bus := rfl
@[simp] theorem resetBlock_draws : (resetBlock s).draws = s.draws := rfl
@[simp] theorem resetBlock_schedule : (resetBlock s).schedule = s.schedule := rfl

end Sys2Proof.Machine
end

