-- ==== Sys2Proof/Laws/Ops.lean ====
section
/-!
SUPPORT. Once for each shared operation, everything it can do: the memory port, the one-step commands, the table
commands, exec as a whole, the engine's turn, the host's and the other agents' accesses, one step.
-/

namespace Sys2Proof.Machine

theorem portWrite_ok {b : ElemWidth} {addr : Nat} {s : State} (h : inSpace b addr = true) (hb : s.bus = .ok)
    (v : Nat) (next : State → State) : portWrite b addr v next s = .next (next (putEntry b addr v s)) := by
  simp [portWrite, h, hb]

theorem portWrite_error {b : ElemWidth} {addr : Nat} {s : State} (h : inSpace b addr = true) (hb : s.bus = .error)
    (v : Nat) (next : State → State) : portWrite b addr v next s =
      .next (raiseFault .busError (BitVec.ofNat 64 addr) (spoilEntry b addr s)) := by
  simp [portWrite, h, hb]

theorem portRead_ok {b : ElemWidth} {addr : Nat} {s : State} (h : inSpace b addr = true) (hb : s.bus = .ok)
    (next : Nat → State → State) :
    portRead b addr next s = .next (next (s.mem.readLE addr b.bytes) s) := by
  simp [portRead, h, hb]

theorem portRead_error {b : ElemWidth} {addr : Nat} {s : State} (h : inSpace b addr = true) (hb : s.bus = .error)
    (next : Nat → State → State) :
    portRead b addr next s = .next (raiseFault .busError (BitVec.ofNat 64 addr) s) := by
  simp [portRead, h, hb]

/-- A write step that goes on: answered well, or ended by BUS_ERROR; in the address space either way. -/
theorem portWrite_next {b : ElemWidth} {addr v : Nat} {next : State → State} {s t : State}
    (h : portWrite b addr v next s = .next t) : inSpace b addr = true ∧
      ((s.bus = .ok ∧ t = next (putEntry b addr v s)) ∨
       (s.bus = .error ∧ t = raiseFault .busError (BitVec.ofNat 64 addr) (spoilEntry b addr s))) := by
  unfold portWrite at h
  split at h
  · refine ⟨‹_›, ?_⟩
    split at h
    · exact .inl ⟨‹_›, by injection h with h; exact h.symm⟩
    · exact .inr ⟨‹_›, by injection h with h; exact h.symm⟩
  · cases h

/-- A read step that goes on. -/
theorem portRead_next {b : ElemWidth} {addr : Nat} {next : Nat → State → State} {s t : State}
    (h : portRead b addr next s = .next t) : inSpace b addr = true ∧
      ((s.bus = .ok ∧ t = next (s.mem.readLE addr b.bytes) s) ∨
       (s.bus = .error ∧ t = raiseFault .busError (BitVec.ofNat 64 addr) s)) := by
  unfold portRead at h
  split at h
  · refine ⟨‹_›, ?_⟩
    split at h
    · exact .inl ⟨‹_›, by injection h with h; exact h.symm⟩
    · exact .inr ⟨‹_›, by injection h with h; exact h.symm⟩
  · cases h

/-- The steps of the table sequence (42_invtab.md R162): what an EXEC step of a table command can do. -/
inductive TableEffect (b : ElemWidth) (s t : State) : Prop where
  | seed (hseq : s.seq = .w1) (hsp : inSpace b (entryAddr b s 1) = true) (hb : s.bus = .ok)
      (ht : t = seedWritten (putEntry b (entryAddr b s 1) 1 s))
  | seedError (hseq : s.seq = .w1) (hsp : inSpace b (entryAddr b s 1) = true) (hb : s.bus = .error)
      (ht : t = raiseFault .busError (BitVec.ofNat 64 (entryAddr b s 1)) (spoilEntry b (entryAddr b s 1) s))
  | noncoprime (hseq : s.seq = .ra) (hi : s.idx.toNat ≤ opN s) (hr : opM s % s.idx.toNat = 0)
      (ht : t = raiseFault .noncoprime s.idx s)
  | read (hseq : s.seq = .ra) (hi : s.idx.toNat ≤ opN s) (hr : opM s % s.idx.toNat ≠ 0)
      (hsp : inSpace b (entryAddr b s (opM s % s.idx.toNat)) = true) (hb : s.bus = .ok)
      (ht : t = entryRead (s.mem.readLE (entryAddr b s (opM s % s.idx.toNat)) b.bytes) s)
  | readError (hseq : s.seq = .ra) (hi : s.idx.toNat ≤ opN s) (hr : opM s % s.idx.toNat ≠ 0)
      (hsp : inSpace b (entryAddr b s (opM s % s.idx.toNat)) = true) (hb : s.bus = .error)
      (ht : t = raiseFault .busError (BitVec.ofNat 64 (entryAddr b s (opM s % s.idx.toNat))) s)
  | finish (hseq : s.seq = .ra) (hi : opN s < s.idx.toNat) (ht : t = complete (opN s) s)
  | write (hseq : s.seq = .wa) (hsp : inSpace b (entryAddr b s s.idx.toNat) = true) (hb : s.bus = .ok)
      (ht : t = entryWritten (putEntry b (entryAddr b s s.idx.toNat) (entryValue s) s))
  | writeError (hseq : s.seq = .wa) (hsp : inSpace b (entryAddr b s s.idx.toNat) = true) (hb : s.bus = .error)
      (ht : t = raiseFault .busError (BitVec.ofNat 64 (entryAddr b s s.idx.toNat))
        (spoilEntry b (entryAddr b s s.idx.toNat) s))

theorem tableStep_next {b : ElemWidth} {s t : State} (h : tableStep b s = .next t) : TableEffect b s t := by
  unfold tableStep at h
  split at h
  · obtain ⟨hsp, ⟨hb, ht⟩ | ⟨hb, ht⟩⟩ := portWrite_next h
    · exact .seed ‹_› hsp hb ht
    · exact .seedError ‹_› hsp hb ht
  · split at h
    · unfold stepRa at h
      split at h
      · exact .noncoprime ‹_› ‹_› ‹_› (by injection h with h; exact h.symm)
      · obtain ⟨hsp, ⟨hb, ht⟩ | ⟨hb, ht⟩⟩ := portRead_next h
        · exact .read ‹_› ‹_› ‹_› hsp hb ht
        · exact .readError ‹_› ‹_› ‹_› hsp hb ht
    · exact .finish ‹_› (by omega) (by injection h with h; exact h.symm)
  · obtain ⟨hsp, ⟨hb, ht⟩ | ⟨hb, ht⟩⟩ := portWrite_next h
    · exact .write ‹_› hsp hb ht
    · exact .writeError ‹_› hsp hb ht

/-- What one engine step of a command can do when it goes on: nothing when IDLE, a VALIDATE fault, the entry into
EXEC, the end of a one-step command, a step of the table sequence. -/
inductive ExecEffect (i : Instr) (s t : State) : Prop where
  | idle (hp : s.phase = .idle) (ht : t = s)
  | invalid (hp : s.phase = .validate) (c : ErrCode) (w : Word) (hc : checkOf i s = some (c, w))
      (ht : t = raiseFault c w s)
  | enter (hp : s.phase = .validate) (hc : checkOf i s = none) (hw : tableWidth i = none) (ht : t = enterExec s)
  | start (hp : s.phase = .validate) (b : ElemWidth) (hc : checkOf i s = none) (hw : tableWidth i = some b)
      (hr : tableRefusal b s = none) (ht : t = startTable s)
  | finish (hp : s.phase = .exec) (hw : tableWidth i = none) (ht : t = complete (resultOf i s) s)
  | table (hp : s.phase = .exec) (b : ElemWidth) (hw : tableWidth i = some b) (he : TableEffect b s t)

theorem oneStepCommand_eq (check : State → Option FaultReport) (result : State → Nat) (s : State) :
    oneStepCommand check result s = match s.phase with
      | .idle => .next s
      | .validate => .next (validateWith (check s) s)
      | .exec => .next (complete (result s) s) := rfl

theorem oneStepCommand_next {i : Instr} {check : State → Option FaultReport} {result : State → Nat} {s t : State}
    (h : oneStepCommand check result s = .next t) (hc : check s = checkOf i s) (hr : result s = resultOf i s)
    (hw : tableWidth i = none) : ExecEffect i s t := by
  unfold oneStepCommand at h
  split at h
  · exact .idle ‹_› (by injection h with h; exact h.symm)
  · injection h with h
    rw [hc] at h
    cases hk : checkOf i s with
    | none => exact .enter ‹_› hk hw (by rw [← h, hk]; rfl)
    | some r =>
      obtain ⟨c, w⟩ := r
      exact .invalid ‹_› c w hk (by rw [← h, hk]; rfl)
  · injection h with h
    exact .finish ‹_› hw (by rw [← h, hr])

theorem tableCommand_next {i : Instr} {b : ElemWidth} {s t : State} (h : tableCommand b s = .next t)
    (hc : checkInvtab b s = checkOf i s) (hw : tableWidth i = some b) : ExecEffect i s t := by
  unfold tableCommand at h
  split at h
  · exact .idle ‹_› (by injection h with h; exact h.symm)
  · unfold validateInvtab at h
    split at h
    · rename_i c w hk
      exact .invalid ‹_› c w (by rw [← hc, hk]) (by injection h with h; exact h.symm)
    · split at h
      · cases h
      · exact .start ‹_› b (by rw [← hc]; assumption) hw ‹_› (by injection h with h; exact h.symm)
  · exact .table ‹_› b hw (tableStep_next h)

/-- What exec can do when it goes on. -/
theorem exec_next {i : Instr} {s t : State} (h : exec i s = .next t) : ExecEffect i s t := by
  cases i with
  | sqrt64 => exact oneStepCommand_next (check := checkSqrt64) (result := fun s => isqrt s.la0.toNat) h rfl rfl rfl
  | sqrt128 => exact oneStepCommand_next (check := checkSqrt128) (result := fun s => isqrt (wideOperand s)) h rfl rfl rfl
  | invtab32 => exact tableCommand_next h rfl rfl
  | invtab64 => exact tableCommand_next h rfl rfl
  | circfull => exact oneStepCommand_next (check := checkCirc) (result := fun s => circFullCount (opN s)) h rfl rfl rfl
  | circquad => exact oneStepCommand_next (check := checkCirc) (result := fun s => circQuadCount (opN s)) h rfl rfl rfl
  | divsum => exact oneStepCommand_next (check := checkDivsum) (result := fun s => divisorSum (opN s)) h rfl rfl rfl

/-- What the engine's turn can do when it goes on. -/
theorem engineTurn_next {r : BusReply} {s t : State} (h : engineTurn r s = .next t) :
    ((s.inReset = true ∨ s.phase = .idle) ∧ t = s) ∨
    (s.inReset = false ∧ s.phase ≠ .idle ∧
      ((∃ i, decodeWord s.lop = .ok i ∧ exec i { s with bus := r } = .next t) ∨
       (∃ e, decodeWord s.lop = .error e ∧ t = raiseFault .illegalCmd s.lop { s with bus := r }))) := by
  unfold engineTurn at h
  split at h
  · exact .inl ⟨.inl ‹_›, by injection h with h; exact h.symm⟩
  · have hr : s.inReset = false := by simpa using ‹¬ s.inReset = true›
    split at h
    · exact .inl ⟨.inr ‹_›, by injection h with h; exact h.symm⟩
    all_goals
      refine .inr ⟨hr, by simp [*], ?_⟩
      split at h
      · exact .inl ⟨_, ‹_›, h⟩
      · exact .inr ⟨_, ‹_›, by injection h with h; exact h.symm⟩

/-- What a host access can do when it goes on. -/
theorem hostAccess_next {width off : Nat} {effect : Slot → State → State} {s t : State}
    (h : hostAccess width off effect s = .next t) :
    s.inReset = false ∧ accessRefusal width off = none ∧ t = effect (slotOf off) s := by
  unfold hostAccess at h
  split at h
  · cases h
  · refine ⟨by simpa using ‹¬ s.inReset = true›, ?_⟩
    split at h
    · cases h
    · exact ⟨‹_›, by injection h with h; exact h.symm⟩

theorem accessRefusal_eq_none {width off : Nat} :
    accessRefusal width off = none ↔ width = 8 ∧ off % 8 = 0 ∧ off ≤ 0x7F := by
  unfold accessRefusal
  constructor
  · intro h
    repeat' split at h
    all_goals first | contradiction | omega
  · rintro ⟨rfl, h1, h2⟩
    rw [if_neg (by simp), if_neg (by omega), if_neg (by omega)]

/-- What another agent's access can do when it goes on. -/
theorem agentAccess_next {addr len : Nat} {effect : State → State} {s t : State}
    (h : agentAccess addr len effect s = .next t) : addr + len ≤ 2 ^ 64 ∧ t = effect s := by
  unfold agentAccess at h
  split at h
  · cases h
  · refine ⟨by omega, ?_⟩
    split at h
    · injection h with h; exact h.symm
    · repeat' split at h
      all_goals first
        | contradiction
        | (injection h with h; exact h.symm)

/-- RD, when it goes on: the slot's value in the host's t (40_command_interface.md R110). -/
theorem hostRead_next {width off : Nat} {s t : State} (h : hostRead width off s = .next t) :
    s.inReset = false ∧ accessRefusal width off = none ∧ t = { s with hostT := readSlot (slotOf off) s } :=
  hostAccess_next h

/-- WR, when it goes on: the slot's effect, then irq (40_command_interface.md R111). -/
theorem hostWrite_next {width off : Nat} {v : Word} {s t : State} (h : hostWrite width off v s = .next t) :
    s.inReset = false ∧ accessRefusal width off = none ∧ t = refreshIrq (writeSlot (slotOf off) v s) :=
  hostAccess_next h

/-- Another agent's write, when it goes on. -/
theorem agentWrite_next {addr : Word} {bytes : List Byte} {s t : State} (h : agentWrite addr bytes s = .next t) :
    addr.toNat + bytes.length ≤ 2 ^ 64 ∧ t = { s with
      mem := s.mem.writeBytes addr.toNat bytes
      memOld := s.memOld.writeBytes addr.toNat bytes } :=
  agentAccess_next h

/-- Another agent's read, when it goes on. -/
theorem agentRead_next {addr : Word} {len : Nat} {s t : State} (h : agentRead addr len s = .next t) :
    addr.toNat + len ≤ 2 ^ 64 ∧ t = { s with
      agentData := (List.range len).map fun k => agentByte s (addr.toNat + k)
      draws := s.draws + 1 } :=
  agentAccess_next h

/-- What reset does to memory and the draw counter: nothing, or one draw and perhaps the write in flight. -/
theorem landInFlight_cases (s : State) :
    (inFlightWrite s = none ∧ landInFlight s = s) ∨
    ∃ b addr v, inFlightWrite s = some (b, addr, v) ∧
      (landInFlight s = { putEntry b addr v s with draws := s.draws + 1 } ∨
       landInFlight s = { s with draws := s.draws + 1 }) := by
  unfold landInFlight
  cases h : inFlightWrite s with
  | none => exact .inl ⟨rfl, rfl⟩
  | some r =>
    obtain ⟨b, addr, v⟩ := r
    refine .inr ⟨b, addr, v, rfl, ?_⟩
    dsimp only
    by_cases hl : Config.freeLands s.draws = true
    · exact .inl (if_pos hl)
    · exact .inr (if_neg hl)

/-- A write in flight is the next write of a table command in EXEC, inside the address space. -/
theorem inFlightWrite_some {s : State} {b : ElemWidth} {addr v : Nat} (h : inFlightWrite s = some (b, addr, v)) :
    runningTable s = some b ∧ pendingWrite b s = some (addr, v) ∧ inSpace b addr = true := by
  unfold inFlightWrite at h
  split at h
  · cases h
  · split at h
    · cases h
    · split at h
      · simp only [Option.some.injEq, Prod.mk.injEq] at h
        obtain ⟨rfl, rfl, rfl⟩ := h
        exact ⟨‹_›, ‹_›, ‹_›⟩
      · cases h

theorem runningTable_some {s : State} {b : ElemWidth} (h : runningTable s = some b) :
    s.phase = .exec ∧ ∃ i, decodeWord s.lop = .ok i ∧ tableWidth i = some b := by
  unfold runningTable at h
  split at h
  · cases h
  · cases h
  · split at h
    · exact ⟨‹_›, _, ‹_›, h⟩
    · cases h

/-- One step goes on exactly when its event does, and then irq is evaluated again (10_state.md R37). -/
theorem step_next {s t : State} (h : step s = .next t) : ∃ u, takeEvent s = .next u ∧ t = refreshIrq u := by
  unfold step settle at h
  split at h
  · exact ⟨_, ‹_›, by injection h with h; exact h.symm⟩
  · cases h
  · cases h

/-- The event a step takes. -/
theorem takeEvent_eq (s : State) : takeEvent s = match s.schedule with
    | [] => engineTurn .ok s
    | e :: rest => perform e { s with schedule := rest } := rfl

/-- A fault a check reports has a code other than 0 (60_exceptions.md R231). -/
theorem checkOf_code {i : Instr} {s : State} {c : ErrCode} {w : Word} (h : checkOf i s = some (c, w)) :
    c ≠ .none := by
  cases i <;>
    simp only [checkOf, checkSqrt64, checkSqrt128, checkInvtab, checkCirc, checkDivsum] at h <;>
    (repeat' split at h) <;> simp_all <;> (obtain ⟨rfl, _⟩ := h; simp)

/-- The check of a table command is check_INVTAB of its width (40_command_interface.md R119). -/
theorem checkOf_table {i : Instr} {b : ElemWidth} {s : State} (hw : tableWidth i = some b) :
    checkOf i s = checkInvtab b s := by
  cases i <;> simp only [tableWidth, reduceCtorEq, Option.some.injEq] at hw <;> subst hw <;> rfl

/-- A table command runs the shared sequence with its width (42_invtab.md R165, R166). -/
theorem exec_table {i : Instr} {b : ElemWidth} {s : State} (hw : tableWidth i = some b) :
    exec i s = tableCommand b s := by
  cases i <;> simp only [tableWidth, reduceCtorEq, Option.some.injEq] at hw <;> subst hw <;> rfl

@[simp] theorem length_drawnBytes (d n : Nat) : (drawnBytes d n).length = n := by simp [drawnBytes]

end Sys2Proof.Machine
end

