-- ==== Sys2Proof/Laws/PerInstr.lean ====
section
/-!
SUPPORT. Facts about each command as a term of `Instr`, one lemma per constructor.
-/

namespace Sys2Proof.Laws.WordWf

/-- The encoded command is well-formed as a command and as a word (30_encoding.md R92). -/
def Statement (i : Instr) : Prop := i.wf = true ∧ wordWf (encode i) = true

theorem sqrt64 : Statement .sqrt64 := by unfold Statement; decide
theorem sqrt128 : Statement .sqrt128 := by unfold Statement; decide
theorem invtab32 : Statement .invtab32 := by unfold Statement; decide
theorem invtab64 : Statement .invtab64 := by unfold Statement; decide
theorem circfull : Statement .circfull := by unfold Statement; decide
theorem circquad : Statement .circquad := by unfold Statement; decide
theorem divsum : Statement .divsum := by unfold Statement; decide

end Sys2Proof.Laws.WordWf
end

