-- ==== Sys2Proof/Tests/Slice0.lean ====
section
/-!
SUPPORT. Tests: the WellFormed smoke, decoding of words written out from 30_encoding.md, the worked examples of
95_test_vectors.md (each named), and a witness for the hypotheses of every statement that has some. Expected values
come from the spec's tables.
-/

namespace Sys2Proof.Tests

open Sys2Proof.Machine

/-! ### Small states -/

/-- A platform: window at 0x10000000, irq on input 5, one device region at 0x20000000, read-only memory at 0x30000000. -/
def platform (wide : Bool) : Config.Params :=
  ⟨wide, 0x10000000#64, 5, [⟨0x20000000, 0x1000⟩], [⟨0x30000000, 0x1000⟩]⟩

/-- The block after reset on that platform. -/
def idleBlock (wide : Bool) : State := { State.reset with cfg := platform wide }

/-- Command word `w` just accepted with operands `a0`, `a1`, `a2` (40_command_interface.md R114). -/
def accepted (wide : Bool) (w a0 a1 a2 : Word) : State :=
  accept w { idleBlock wide with arg0 := a0, arg1 := a1, arg2 := a2 }

/-- The same command in EXEC. -/
def inExec (wide : Bool) (w a0 a1 a2 : Word) : State := enterExec (accepted wide w a0 a1 a2)

/-- A table command in EXEC at a place of its sequence. -/
def inTable (w a0 a1 a2 : Word) (q : SeqPoint) (i tmp : Word) : State :=
  { inExec true w a0 a1 a2 with seq := q, idx := i, tmpv := tmp, progress := i - 1 }

/-- The next state of an outcome, if it is one. -/
def nextOf (r : Result) : Option State :=
  match r with
  | .next t => some t
  | .fault _ | .refused _ => none

/-- STATUS, ERRINFO, RES_HI, RES_LO of an outcome, as software reads them. -/
def report (r : Result) : Option (Word × Word × Word × Word) :=
  (nextOf r).map fun t => (statusWord t, t.errinfo, t.resHi, t.resLo)

/-- PROGRESS and the first `n` table entries of an outcome. -/
def table (b : ElemWidth) (n : Nat) (r : Result) : Option (Nat × List Nat) :=
  (nextOf r).map fun t => (t.progress.toNat, (List.range n).map fun j => entryOf b t (j + 1))

/-! ### WellFormed: an ill-formed word for each check -/

/-- RSVD bit 4 set (V-E4). -/
theorem test_wf_refuses_reserved_bit : rsvdClear 0x11#64 = false ∧ wordWf 0x11#64 = false := by decide

/-- OP = 0x0 (V-E1) and OP = 0x8, 0xF (V-E2, V-E3). -/
theorem test_wf_refuses_undefined_op :
    opDefined 0x0#64 = false ∧ opDefined 0x8#64 = false ∧ opDefined 0xF#64 = false ∧ wordWf 0x8#64 = false := by
  decide

theorem test_wf_accepts_legal_words :
    wordWf 0x1#64 ∧ wordWf 0x2#64 ∧ wordWf 0x3#64 ∧ wordWf 0x4#64 ∧ wordWf 0x5#64 ∧ wordWf 0x6#64 ∧ wordWf 0x7#64 := by
  decide

/-! ### Decoding: the words of 30_encoding.md R92, bit by bit -/

theorem test_decode_sqrt64 : decodeWord
    0b0000000000000000000000000000000000000000000000000000000000000001#64 = .ok .sqrt64 := by decide
theorem test_decode_sqrt128 : decodeWord
    0b0000000000000000000000000000000000000000000000000000000000000010#64 = .ok .sqrt128 := by decide
theorem test_decode_invtab32 : decodeWord
    0b0000000000000000000000000000000000000000000000000000000000000011#64 = .ok .invtab32 := by decide
theorem test_decode_invtab64 : decodeWord
    0b0000000000000000000000000000000000000000000000000000000000000100#64 = .ok .invtab64 := by decide
theorem test_decode_circfull : decodeWord
    0b0000000000000000000000000000000000000000000000000000000000000101#64 = .ok .circfull := by decide
theorem test_decode_circquad : decodeWord
    0b0000000000000000000000000000000000000000000000000000000000000110#64 = .ok .circquad := by decide
theorem test_decode_divsum : decodeWord
    0b0000000000000000000000000000000000000000000000000000000000000111#64 = .ok .divsum := by decide

/-- V-E1 to V-E5. -/
theorem test_decode_rejects : decodeWord 0x0#64 = .error .opZero ∧ decodeWord 0x8#64 = .error .opHigh ∧
    decodeWord 0xF#64 = .error .opHigh ∧ decodeWord 0x11#64 = .error .reservedBits ∧
    decodeWord 0x8000000000000005#64 = .error .reservedBits := by decide

/-- The opcode table's numbering is the register's own: bit 0 least significant (R11). -/
theorem test_decode_table_word : decodeTableWord 64 3 = some .invtab32 ∧ decodeTableWord 64 (2 ^ 63 + 5) = none := by
  decide

/-- The first step after reset runs the command that withFetchWord places: SQRT64 of the reset ARG0 enters EXEC. -/
theorem test_fetch_runs_first : ((nextOf (step (State.reset.withFetchWord 64 1))).map (·.phase)) = some .exec := by
  decide

/-! ### Worked examples of the commands -/

/-- V-S1, V-S17, V-S22. -/
theorem test_sqrt64_values : isqrt 0 = 0 ∧ isqrt 0xFFFFFFFE00000000 = 4294967294 ∧
    isqrt 0xFFFFFFFFFFFFFFFF = 4294967295 := by decide

/-- V-S14: 2^53 + 1, from accept to end. -/
theorem test_sqrt64_run : report (engineRun 2 (accepted false 1 0x0020000000000001 0 0)) =
    some (0x2, 0, 0, 94906265) := by decide

/-- V-Q8: (2^63 + 1000)^2. -/
theorem test_sqrt128_run : report (engineRun 2 (accepted true 2 0xF4240 0x40000000000003E8 0)) =
    some (0x2, 0, 0, 0x80000000000003E8) := by decide

/-- V-Q9: UNSUPPORTED. -/
theorem test_sqrt128_unsupported : report (engineRun 1 (accepted false 2 0 1 0)) = some (0x206, 0x2, 0, 0) := by
  decide

/-- V-C29: CIRCFULL of 100. -/
theorem test_circfull_run : report (engineRun 2 (accepted false 5 100 0 0)) = some (0x2, 0, 0, 317) := by decide

/-- V-C26: CIRCQUAD of 25, boundary points counted. -/
theorem test_circquad_run : report (engineRun 2 (accepted false 6 25 0 0)) = some (0x2, 0, 0, 15) := by decide

/-- V-C29: DIVSUM of 100. -/
theorem test_divsum_run : report (engineRun 2 (accepted false 7 100 0 0)) = some (0x2, 0, 0, 482) := by decide

/-- V-C1 and V-C5: 0 is accepted; a perfect square. -/
theorem test_divsum_small : divisorSum 0 = 0 ∧ divisorSum 4 = 8 := by decide

/-- V-R3, V-R5 and V-R9. -/
theorem test_range_and_negative :
    report (engineRun 1 (accepted false 5 0x2000000000000001 0 0)) = some (0x506, 0x2000000000000001, 0, 0) ∧
    report (engineRun 1 (accepted false 7 0x0200000000000001 0 0)) = some (0x506, 0x0200000000000001, 0, 0) ∧
    report (engineRun 1 (accepted true 6 0x8000000000000000 0 0)) = some (0x306, 0x8000000000000000, 0, 0) := by
  decide

/-- P2 of 95_test_vectors.md: INVTAB32 with n = 6, m = 7, after 13 turns. -/
theorem test_invtab32_p2 :
    report (engineRun 13 (accepted true 3 6 7 0x1000)) = some (0x2, 0, 0, 6) ∧
    table .w4 6 (engineRun 13 (accepted true 3 6 7 0x1000)) = some (6, [1, 4, 5, 2, 3, 6]) := by decide

/-- V-I5: INVTAB64 with n = 6, m = 35 stops at 5. -/
theorem test_invtab64_noncoprime :
    report (engineRun 9 (accepted true 4 6 35 0x2000)) = some (0x806, 5, 0, 0) ∧
    table .w8 5 (engineRun 9 (accepted true 4 6 35 0x2000)) = some (4, [1, 18, 12, 9, 0]) := by decide

/-- V-I12: INVTAB64 modulo 2^61 - 1, RANGE when WIDE128 = 0. -/
theorem test_invtab64_wide :
    table .w8 5 (engineRun 11 (accepted true 4 5 2305843009213693951 0x2000)) =
      some (5, [1, 1152921504606846976, 1537228672809129301, 576460752303423488, 1844674407370955161]) ∧
    report (engineRun 1 (accepted false 4 5 2305843009213693951 0x2000)) =
      some (0x506, 0x1FFFFFFFFFFFFFFF, 0, 0) := by decide

/-- V-F2, V-F3, V-F5, V-F7, V-F8: the priority of the operand checks. -/
theorem test_invtab_priority :
    report (engineRun 1 (accepted true 3 0 0xFFFFFFFFFFFFFFFB 0x1000)) = some (0x306, 0xFFFFFFFFFFFFFFFB, 0, 0) ∧
    report (engineRun 1 (accepted true 3 0 1 0x1000)) = some (0x406, 0, 0, 0) ∧
    report (engineRun 1 (accepted true 3 5 0x80000000 0x1002)) = some (0x506, 0x80000000, 0, 0) ∧
    report (engineRun 1 (accepted true 4 5 7 0x1004)) = some (0x606, 0x1004, 0, 0) ∧
    report (engineRun 1 (accepted true 4 2 7 0xFFFFFFFFFFFFFFF0)) = some (0x706, 0xFFFFFFFFFFFFFFF0, 0, 0) := by
  decide

/-- V-F9: a table that ends exactly at 2^64 - 1 is accepted. -/
theorem test_invtab_last_address :
    report (engineRun 3 (accepted true 4 1 7 0xFFFFFFFFFFFFFFF0)) = some (0x2, 0, 0, 1) ∧
    table .w8 1 (engineRun 3 (accepted true 4 1 7 0xFFFFFFFFFFFFFFF0)) = some (1, [1]) := by decide

/-! ### The window, reset, the other agents -/

/-- V-G7: STATUS 0x806, ack, 0x800. -/
theorem test_ack_keeps_code :
    ((nextOf (hostWrite 8 0x18 0x6 (raiseFault .noncoprime 5 (idleBlock true)))).map statusWord) = some 0x800 := by
  decide

/-- V-G11 and V-G16: a CMD write while busy is dropped and shown. -/
theorem test_dropped_command :
    ((nextOf (hostWrite 8 0x10 0x1 (accepted true 3 6 7 0x1000))).map fun t => (statusWord t, t.cmd)) =
      some (0x9, 3) := by decide

/-- V-G10: irq rises at once when IE is set with DONE = 1. -/
theorem test_irq_rises_with_enable :
    ((nextOf (hostWrite 8 0x08 0x1 (complete 7 (idleBlock true)))).map irqOutput) = some (5, true) := by decide

/-- P7: reset before step Ra of i = 4 keeps entries 1 to 3 and clears STATUS and PROGRESS. -/
theorem test_reset_in_table :
    (((nextOf (engineRun 6 (accepted true 3 6 7 0x1000))).map assertReset).map fun t =>
      (statusWord t, t.progress, (List.range 6).map fun j => t.mem.readLE (0x1004 + 4 * j) 4)) =
      some (0, 0, [1, 4, 5, 0, 0, 0]) := by decide

/-- 20_memory.md R60: bytes of a 4-byte write, lowest address first; a zero byte is not listed. -/
theorem test_little_endian :
    (Memory.writeLE [] 0x1000 4 0x01000203) = [(0x1000, 3#8), (0x1001, 2#8), (0x1003, 1#8)] := by decide

/-! ### Witnesses: states that meet the hypotheses of the statements -/

theorem exists_next {r : Result} (h : (nextOf r).isSome = true) : ∃ t, r = .next t := by
  cases r <;> first | exact ⟨_, rfl⟩ | cases h

/-- A span of at most 100 entries at 0x1000 meets no region above it. -/
theorem span_off_region {b : ElemWidth} {s : State} {base size : Nat} (hb : s.la2.toNat = 0x1000)
    (hn : sval s.la0 ≤ 100) (hbase : 0x10000000 ≤ base) : ¬ SpanOnRegion [⟨base, size⟩] b s := by
  rintro ⟨r, hr, a, h1, h2, h3, h4⟩
  rw [List.mem_singleton] at hr
  subst hr
  rw [hb] at h2
  cases b <;> simp only [ElemWidth.bytes] at h2 <;> simp only at h3 <;> omega

/-- A span of at most 100 entries at 0x1000 lies in ordinary memory on `platform`. -/
theorem span_placed {b : ElemWidth} {s : State} (hb : s.la2.toNat = 0x1000) (hn : sval s.la0 ≤ 100)
    (hw : s.cfg.regBase.toNat = 0x10000000) (hd : s.cfg.devices = [⟨0x20000000, 0x1000⟩])
    (hu : s.cfg.unkept = [⟨0x30000000, 0x1000⟩]) : TablePlaced b s := by
  refine ⟨?_, by rw [hd]; exact span_off_region hb hn (by decide), by rw [hu]; exact span_off_region hb hn (by decide)⟩
  rintro ⟨a, h1, h2, h3, h4⟩
  rw [hb] at h2
  rw [hw] at h3
  cases b <;> simp only [ElemWidth.bytes] at h2 <;> omega

/-- INVTAB32 and INVTAB64 with n = 6 and m = 7 or m = 35, just accepted. -/
theorem table_ready : TableReady .invtab32 .w4 (accepted true 3 6 7 0x1000) ∧
    TableReady .invtab64 .w8 (accepted true 4 6 7 0x1000) ∧
    TableReady .invtab32 .w4 (accepted true 3 6 35 0x1000) ∧
    TableReady .invtab64 .w8 (accepted false 4 6 35 0x1000) := by
  refine ⟨⟨rfl, rfl, rfl, rfl, rfl, ?_, span_placed rfl ?_ rfl rfl rfl⟩,
    ⟨rfl, rfl, rfl, rfl, rfl, ?_, span_placed rfl ?_ rfl rfl rfl⟩,
    ⟨rfl, rfl, rfl, rfl, rfl, ?_, span_placed rfl ?_ rfl rfl rfl⟩,
    ⟨rfl, rfl, rfl, rfl, rfl, ?_, span_placed rfl ?_ rfl rfl rfl⟩⟩ <;>
    first | (unfold TableOperandsValid; decide) | decide

/-- Operands at the edges: m = 2, n = 1; a table that ends at 2^64 - 1; m = MMAX for each width and platform. -/
theorem table_valid_edges : TableOperandsValid .w4 (accepted true 3 1 2 0x1000) ∧
    TableOperandsValid .w8 (accepted true 4 1 7 0xFFFFFFFFFFFFFFF0) ∧
    TableOperandsValid .w4 (accepted true 3 6 0x7FFFFFFF 0x1004) ∧
    TableOperandsValid .w8 (accepted false 4 6 0xFFFFFFFF 0x1000) ∧
    TableOperandsValid .w8 (accepted true 4 6 0x7FFFFFFFFFFFFFFF 0x1000) := by
  unfold TableOperandsValid; decide

theorem witness_IllegalWordEndsWithIllegalCmd :
    (idleBlock true).inReset = false ∧ (idleBlock true).busy = false ∧
    (0x0#64).toNat % 16 = 0 ∧ 8 ≤ (0x8#64).toNat % 16 ∧ 8 ≤ (0xF#64).toNat % 16 ∧ (0x11#64).toNat / 16 ≠ 0 ∧
    (0x8000000000000005#64).toNat / 16 ≠ 0 := by decide

/-- A command in VALIDATE and in EXEC, an engine event next and no event at all. -/
theorem witness_StepRunsDecodedCommand :
    let s := accepted true 1 9 0 0
    let s' := { inExec true 7 9 0 0 with schedule := [.engine .error] }
    (s.inReset = false ∧ s.phase ≠ .idle ∧ decodeWord s.lop = .ok .sqrt64 ∧ s.schedule = []) ∧
    s'.inReset = false ∧ s'.phase ≠ .idle ∧ decodeWord s'.lop = .ok .divsum ∧ s'.schedule = .engine .error :: [] := by
  decide

/-- Each event at the head of a schedule. -/
theorem witness_EventsAreSingleSteps : ∀ e ∈ [Event.hostRead 8 0, .hostWrite 8 0x20 5, .agentWrite 0x1000 [1#8],
    .agentRead 0x1000 4, .resetAssert, .resetRelease, .engine .ok],
    { idleBlock true with schedule := [e] }.schedule = e :: [] ∧
    { idleBlock true with schedule := [e] }.phase = .idle := by decide

/-- Reset released: HostReadReturnsEachRegister, StatusFieldsAndWriteOneToClear, ControlRegisterHoldsOnlyIE,
UndefinedHostAccessesAreRefused; with BUSY = 0: AcceptLatchesTheCommand; with irq = DONE AND IE:
ReservedAndReadOnlyIgnoreWrites and OperandWritesTakeEffectAtOnce. -/
theorem witness_idle_window : (idleBlock true).inReset = false ∧ (idleBlock true).busy = false ∧
    (idleBlock true).irq = ((idleBlock true).done && (idleBlock true).ie) := by decide

/-- BUSY = 1 and irq = DONE AND IE: OperandWritesTakeEffectAtOnce (its idle case is above), BusyBlockDropsCommand. -/
theorem witness_busy_window : (accepted true 1 9 0 0).inReset = false ∧ (accepted true 1 9 0 0).busy = true ∧
    (accepted true 1 9 0 0).irq = ((accepted true 1 9 0 0).done && (accepted true 1 9 0 0).ie) := by decide

/-- The edges of the window: offset 0x78 is the last, 0x80 is outside, 4 is misaligned, 4 bytes are too narrow. -/
theorem witness_UndefinedHostAccessesAreRefused :
    accessRefusal 8 0x78 = none ∧ accessRefusal 8 0x80 = some .accessOutsideWindow ∧
    accessRefusal 8 4 = some .accessMisaligned ∧ accessRefusal 4 0 = some .accessWidth := by decide

theorem witness_OnlyResetStopsARunningCommand : ∀ e ∈ [Event.hostRead 8 0x18, .hostWrite 8 0x10 1,
    .agentWrite 0x1000 [1#8], .agentRead 0x1000 4],
    (accepted true 3 6 7 0x1000).busy = true ∧ (nextOf (perform e (accepted true 3 6 7 0x1000))).isSome = true := by
  decide

/-- VALIDATE and EXEC of every command, on both platforms: Sqrt64Completes, Sqrt128Completes. -/
theorem witness_phases : (accepted true 2 9 0 0).phase = .validate ∧ (accepted true 2 9 0 0).cfg.wide128 = true ∧
    (accepted false 2 9 0 0).phase = .validate ∧ (accepted false 2 9 0 0).cfg.wide128 = false ∧
    (inExec true 2 9 0 0).phase = .exec ∧ (accepted false 1 9 0 0).phase = .validate ∧
    (inExec false 1 9 0 0).phase = .exec := by decide

/-- EXEC with n = 0 and n = 2^63 - 1: CircfullCompletes, CircquadCompletes, DivsumCompletes. -/
theorem witness_exec_counts : (inExec true 5 0 0 0).phase = .exec ∧ 0 ≤ sval (inExec true 5 0 0 0).la0 ∧
    0 ≤ sval (inExec true 5 0x7FFFFFFFFFFFFFFF 0 0).la0 := by decide

/-- n = -2^63, -1 and 0; 2^61, 2^61 + 1. -/
theorem witness_CircleOperandChecks : sval 0x8000000000000000#64 < 0 ∧ sval 0xFFFFFFFFFFFFFFFF#64 < 0 ∧
    0 ≤ sval 0#64 ∧ sval 0#64 ≤ 2 ^ 61 ∧ sval 0x2000000000000000#64 ≤ 2 ^ 61 ∧
    2 ^ 61 < sval 0x2000000000000001#64 ∧ (accepted false 5 0x2000000000000001 0 0).cfg.wide128 = false ∧
    (accepted false 6 0 0 0).phase = .validate := by decide

/-- 2^57, 2^57 + 1. -/
theorem witness_DivsumOperandChecks : sval 0xFFFFFFFFFFFFFFFF#64 < 0 ∧ 0 ≤ sval 0x0200000000000000#64 ∧
    sval 0x0200000000000000#64 ≤ 2 ^ 57 ∧ 2 ^ 57 < sval 0x0200000000000001#64 ∧
    (accepted false 7 0x0200000000000001 0 0).cfg.wide128 = false ∧ (accepted false 7 0 0 0).phase = .validate := by
  decide

/-- Two states with one latch and different pasts, at VALIDATE and at EXEC. -/
theorem witness_OutcomeDependsOnlyOnLatch :
    tableWidth .circfull = none ∧
    (∀ x ∈ [inExec false 5 100 0 0, accepted false 5 100 0 0], let y := { x with resLo := 9, ie := true, hostT := 3 }
      x ≠ y ∧ x.phase = y.phase ∧ x.lop = y.lop ∧ x.la0 = y.la0 ∧ x.la1 = y.la1 ∧ x.cfg.wide128 = y.cfg.wide128 ∧
      (nextOf (exec .circfull x)).isSome = true ∧ (nextOf (exec .circfull y)).isSome = true) := by decide

/-- One state for each clause of the checks: the vectors of the fault section of 95_test_vectors.md. -/
theorem witness_TableOperandChecks :
    (∀ s ∈ [accepted true 3 0 0 0, accepted true 4 0 0 0], s.phase = .validate) ∧
    sval 0xFFFFFFFFFFFFFFFF#64 < 0 ∧ (0 ≤ sval 0#64 ∧ sval 0xFFFFFFFFFFFFFFFB#64 < 0) ∧ sval 0#64 = 0 ∧
    (1 ≤ sval 1#64 ∧ sval 1#64 < 2) ∧ (2 ≤ sval 0x80000000#64 ∧ 2 ^ 31 - 1 < sval 0x80000000#64) ∧
    2 ^ 32 - 1 < sval 0x100000000#64 ∧ sval 0xFFFFFFFF#64 ≤ 2 ^ 32 - 1 ∧ sval 0x7FFFFFFFFFFFFFFF#64 ≤ 2 ^ 63 - 1 ∧
    (0x1002#64).toNat % 4 ≠ 0 ∧ (0x1004#64).toNat % 8 ≠ 0 ∧ (0x1000#64).toNat % 8 = 0 ∧
    2 ^ 64 - 1 < ((0xFFFFFFFFFFFFFFF0#64 : Word).toNat : ℤ) + (sval 2#64 + 1) * 8 - 1 ∧
    ((0xFFFFFFFFFFFFFFF0#64 : Word).toNat : ℤ) + (sval 1#64 + 1) * 8 - 1 ≤ 2 ^ 64 - 1 ∧
    TablePlaced .w8 (accepted true 4 6 7 0x1000) := by
  refine ⟨by decide, by decide, by decide, by decide, by decide, by decide, by decide, by decide, by decide,
    by decide, by decide, by decide, by decide, by decide, table_ready.2.1.2.2.2.2.2.2⟩

/-- Tables of one entry: the last reaches the window, lies in the device region, lies in the read-only memory. -/
theorem table_valid_misplaced : TableOperandsValid .w4 (accepted true 3 1 7 0x0FFFFFFC) ∧
    TableOperandsValid .w8 (accepted true 4 1 7 0x20000FF8) ∧
    TableOperandsValid .w4 (accepted true 3 1 7 0x30000000) := by
  unfold TableOperandsValid; decide

/-- Each placement that is refused, and none of the ones named before it. -/
theorem witness_TableOutsideOrdinaryMemoryIsRefused :
    SpanOnWindow .w4 (accepted true 3 1 7 0x0FFFFFFC) ∧
    (SpanOnRegion (platform true).devices .w8 (accepted true 4 1 7 0x20000FF8) ∧
      ¬ SpanOnWindow .w8 (accepted true 4 1 7 0x20000FF8)) ∧
    SpanOnRegion (platform true).unkept .w4 (accepted true 3 1 7 0x30000000) ∧
    ¬ SpanOnWindow .w4 (accepted true 3 1 7 0x30000000) ∧
    ¬ SpanOnRegion (platform true).devices .w4 (accepted true 3 1 7 0x30000000) := by
  have h1 := base_le_tableEnd table_valid_misplaced.1
  have h2 := base_le_tableEnd table_valid_misplaced.2.1
  have h3 := base_le_tableEnd table_valid_misplaced.2.2
  exact ⟨(onWindow_iff h1).1 (by decide), ⟨(onRegion_iff h2).1 (by decide), mt (onWindow_iff h2).2 (by decide)⟩,
    (onRegion_iff h3).1 (by decide), mt (onWindow_iff h3).2 (by decide), mt (onRegion_iff h3).2 (by decide)⟩

/-- The placement refusals run: the window, a device, read-only memory, for a table command and for another agent. -/
theorem test_refused_placements :
    exec .invtab32 (accepted true 3 1 7 0x0FFFFFFC) = .refused .tableOverWindow ∧
    exec .invtab64 (accepted true 4 1 7 0x20000FF8) = .refused .tableOverDevice ∧
    exec .invtab32 (accepted true 3 1 7 0x30000000) = .refused .tableOverUnkept ∧
    agentWrite 0x30000FFF [1#8] (idleBlock true) = .refused .agentOnUnkept ∧
    (nextOf (agentWrite 0x30001000 [1#8] (idleBlock true))).isSome = true :=
  ⟨rfl, rfl, rfl, rfl, by decide⟩

/-- The table with n = 6, m = 7 or 35 at each step of its sequence: the first and the last index of the loop. -/
theorem witness_table_steps (q : SeqPoint) :
    TableOperandsValid .w4 (inTable 3 6 7 0x1000 q 2 1) ∧ TableOperandsValid .w8 (inTable 4 6 35 0x1000 q 6 1) ∧
    (inTable 3 6 7 0x1000 q 2 1).phase = .exec ∧ (inTable 3 6 7 0x1000 q 2 1).seq = q ∧
    (inTable 3 6 7 0x1000 q 2 1).bus = .ok ∧ (inTable 3 6 7 0x1000 q 2 1).mem.wf = true ∧
    (1 ≤ (2#64).toNat ∧ opM (inTable 3 6 7 0x1000 q 2 1) % (2#64).toNat ≠ 0) ∧
    ((6#64).toNat ≤ opN (inTable 3 6 7 0x1000 q 6 1) ∧ opM (inTable 3 6 7 0x1000 q 6 1) % (6#64).toNat ≠ 0) ∧
    opN (inTable 3 6 7 0x1000 q 7 1) < (7#64).toNat ∧
    ((5#64).toNat ≤ opN (inTable 3 6 35 0x1000 q 5 1) ∧ opM (inTable 3 6 35 0x1000 q 5 1) % (5#64).toNat = 0) := by
  cases q <;> (unfold TableOperandsValid; decide)

/-- A bus error in step W1, in step Ra and in step Wa. -/
theorem witness_BusErrorEndsCommand :
    ∀ q : SeqPoint, let s := { inTable 3 6 7 0x1000 q 2 1 with bus := .error }
      s.bus = .error ∧ s.phase = .exec ∧ s.seq = q ∧ TableOperandsValid .w4 s ∧ s.idx.toNat ≤ opN s ∧
      1 ≤ s.idx.toNat ∧ opM s % s.idx.toNat ≠ 0 ∧ s.la2.toNat + (ElemWidth.w4).bytes = 0x1004 ∧
      s.la2.toNat + s.idx.toNat * (ElemWidth.w4).bytes = 0x1008 ∧
      s.la2.toNat + opM s % s.idx.toNat * (ElemWidth.w4).bytes = 0x1004 := by
  intro q
  cases q <;> (unfold TableOperandsValid; decide)

/-- TableCommandFrame and RegisterCommandFrame: a step of each kind goes on. -/
theorem witness_frames :
    (∀ s ∈ [accepted true 3 6 7 0x1000, accepted true 3 0 7 0x1000, inTable 3 6 7 0x1000 .w1 1 0,
      inTable 3 6 7 0x1000 .ra 2 0, inTable 3 6 7 0x1000 .wa 2 1, inTable 3 6 7 0x1000 .ra 7 0],
      tableWidth .invtab32 = some .w4 ∧ (nextOf (exec .invtab32 s)).isSome = true) ∧
    (∀ s ∈ [accepted true 7 100 0 0, inExec true 7 100 0 0],
      tableWidth .divsum = none ∧ (nextOf (exec .divsum s)).isSome = true) := by decide

/-- n = 6 and m = 7: every index is coprime to m. -/
theorem witness_InverseTableIsCorrect : TableReady .invtab32 .w4 (accepted true 3 6 7 0x1000) ∧
    ∀ j, 1 ≤ j → j ≤ opN (accepted true 3 6 7 0x1000) → Nat.Coprime j (opM (accepted true 3 6 7 0x1000)) := by
  refine ⟨table_ready.1, fun j h1 h2 => ?_⟩
  have e : opN (accepted true 3 6 7 0x1000) = 6 := by decide
  have e7 : opM (accepted true 3 6 7 0x1000) = 7 := by decide
  rw [e] at h2
  rw [e7]
  interval_cases j <;> decide

/-- n = 6 and m = 35: the first divisor of m from 2 up is 5. -/
theorem witness_NoncoprimeRunKeepsTrueInverses : TableReady .invtab32 .w4 (accepted true 3 6 35 0x1000) ∧
    2 ≤ 5 ∧ 5 ≤ opN (accepted true 3 6 35 0x1000) ∧ opM (accepted true 3 6 35 0x1000) % 5 = 0 ∧
    ∀ j, 2 ≤ j → j < 5 → opM (accepted true 3 6 35 0x1000) % j ≠ 0 := by
  refine ⟨table_ready.2.2.1, by decide, by decide, by decide, fun j h1 h2 => ?_⟩
  have e : opM (accepted true 3 6 35 0x1000) = 35 := by decide
  rw [e]
  interval_cases j <;> decide

theorem witness_ValidateFaultRecord : (accepted false 2 0 0 0).phase = .validate ∧
    checkOf .sqrt128 (accepted false 2 0 0 0) = some (.unsupported, 2) := by decide

theorem witness_FaultMatrix : (accepted true 0x13 0 0 0).inReset = false ∧ (accepted true 0x13 0 0 0).phase ≠ .idle ∧
    decodeWord (accepted true 0x13 0 0 0).lop = .error .reservedBits := by decide

/-- A step that changes RES (16 has root 4), one that sets CMD_OVF and one that clears it, one that sets ERRCODE, one
that clears it by accept, one by reset. -/
theorem witness_whole_machine_rules :
    ((nextOf (step (inExec false 1 16 0 0))).map fun t => (t.resLo, t.irq)) = some (4, false) ∧
    ((nextOf (step { accepted false 1 16 0 0 with schedule := [.hostWrite 8 0x10 1] })).map (·.cmdOvf)) = some true ∧
    ((nextOf (step { idleBlock false with cmdOvf := true, schedule := [.hostWrite 8 0x18 8] })).map (·.cmdOvf)) =
      some false ∧
    ((nextOf (step (accepted false 2 0 0 0))).map (·.errcode)) = some .unsupported ∧
    ((nextOf (step { raiseFault .domain 0 (idleBlock false) with schedule := [.hostWrite 8 0x10 1] })).map
      (·.errcode)) = some .none ∧
    ((nextOf (step { raiseFault .domain 0 (idleBlock false) with schedule := [.resetAssert] })).map
      (·.errcode)) = some .none := by decide

theorem witness_EngineLeavesHostRegisters : ∃ t, engineTurn .ok (inExec false 7 100 0 0) = .next t :=
  exists_next (by decide)

/-- The parts of the invariant that do not speak of the engine's place, in a form that decides, for a state whose two
views of memory are one. -/
theorem blockInv_of {s : State} (hb : s.busy = true ↔ s.phase ≠ .idle)
    (ho : s.done = false ∧ s.err = false ∧ s.errcode = .none ∧ s.errinfo = 0) (hi : s.irq = (s.done && s.ie))
    (hm : s.mem.wf = true ∧ s.memOld.wf = true) (hv : s.memOld = s.mem) (hr : s.inReset = false)
    (he : EngineCoherent s) : BlockInv s :=
  ⟨⟨hb, fun _ => ho, fun _ => ⟨ho.2.1, ho.2.2.2⟩⟩, hi, hm, fun h => (by simp [hr] at h), he, by
    unfold ViewCoherent
    repeat' split
    all_goals simp [hv]⟩

/-- The invariant holds in a state at rest, with VALIDATE ahead, and inside the table sequence. -/
theorem witness_InvariantIsKept : BlockInv (idleBlock false) ∧ BlockInv (accepted true 3 6 7 0x1000) ∧
    BlockInv (startTable (accepted true 3 6 7 0x1000)) ∧
    ∃ t, step (startTable (accepted true 3 6 7 0x1000)) = .next t :=
  ⟨blockInv_of (by decide) (by decide) (by decide) (by decide) (by decide) (by decide) trivial,
    blockInv_of (by decide) (by decide) (by decide) (by decide) (by decide) (by decide)
      (by decide : (0 : Word) = 0 ∧ (0 : Word) = 0),
    blockInv_of (by decide) (by decide) (by decide) (by decide) (by decide) (by decide)
      ⟨.invtab32, rfl, by decide, by decide, (by decide : (1#64).toNat = 1 ∧ (0#64).toNat = 0)⟩,
    exists_next (by decide)⟩

/-- Invariant, reset released, running: a table command at VALIDATE (13 turns left for n = 6) and inside EXEC, and an
illegal word (1 turn left). -/
theorem witness_EveryCommandEnds :
    (BlockInv (accepted true 3 6 7 0x1000) ∧ turnsLeft (accepted true 3 6 7 0x1000) = 13 ∧
      TablePlaced .w4 (accepted true 3 6 7 0x1000)) ∧
    (BlockInv (startTable (accepted true 3 6 7 0x1000)) ∧
      turnsLeft (startTable (accepted true 3 6 7 0x1000)) = 12) ∧
    (BlockInv (accepted true 0 0 0 0) ∧ turnsLeft (accepted true 0 0 0 0) = 1 ∧
      ∀ i, decodeWord (accepted true 0 0 0 0).lop ≠ .ok i) ∧
    (accepted true 3 6 7 0x1000).busy = true ∧
    (nextOf (perform (.hostWrite 8 0x10 1) (accepted true 3 6 7 0x1000))).isSome = true := by
  refine ⟨⟨witness_InvariantIsKept.2.1, by decide, table_ready.1.2.2.2.2.2.2⟩,
    ⟨witness_InvariantIsKept.2.2.1, by decide⟩, ⟨?_, by decide, fun i => by cases i <;> decide⟩, by decide, by decide⟩
  exact blockInv_of (by decide) (by decide) (by decide) (by decide) (by decide) (by decide)
    (by decide : (0 : Word) = 0 ∧ (0 : Word) = 0)

/-- With WIDE128 = 0, a count about to end. -/
theorem witness_NarrowResultIsKept : BlockInv (inExec false 5 100 0 0) ∧ NarrowResult (inExec false 5 100 0 0) ∧
    (inExec false 5 100 0 0).cfg.wide128 = false ∧ ∃ t, step (inExec false 5 100 0 0) = .next t :=
  ⟨blockInv_of (by decide) (by decide) (by decide) (by decide) (by decide) (by decide)
      ⟨.circfull, rfl, by decide, (by decide : (0 : Word) = 0)⟩,
    by unfold NarrowResult; decide, rfl, exists_next (by decide)⟩

/-- An agent's write of two bytes at the last address, and a read. -/
theorem witness_OnlyAgentsLeaveTheAddressSpace :
    (∀ e : List Event, BlockInv { idleBlock true with schedule := e }) ∧
    step { idleBlock true with schedule := [.agentWrite 0xFFFFFFFFFFFFFFFF [1#8, 2#8]] } =
      .fault .agentAddressBeyondSpace ∧
    step { idleBlock true with schedule := [.agentRead 0xFFFFFFFFFFFFFFFF 2] } = .fault .agentAddressBeyondSpace :=
  ⟨fun _ => blockInv_of (by simp [idleBlock, State.reset]) ⟨rfl, rfl, rfl, rfl⟩ rfl ⟨rfl, rfl⟩ rfl rfl trivial, rfl, rfl⟩

/-- The two widths with the same n and m, on platforms that differ. -/
theorem witness_TableWidthIndependence :
    (BlockInv (accepted true 3 6 35 0x1000) ∧ BlockInv (accepted false 4 6 35 0x1000)) ∧
    TableReady .invtab32 .w4 (accepted true 3 6 35 0x1000) ∧ TableReady .invtab64 .w8 (accepted false 4 6 35 0x1000) ∧
    (accepted true 3 6 35 0x1000).la0 = (accepted false 4 6 35 0x1000).la0 ∧
    (accepted true 3 6 35 0x1000).la1 = (accepted false 4 6 35 0x1000).la1 ∧
    opM (accepted true 3 6 35 0x1000) ≤ 2 ^ 31 - 1 :=
  ⟨⟨blockInv_of (by decide) (by decide) (by decide) (by decide) (by decide) (by decide)
      (by decide : (0 : Word) = 0 ∧ (0 : Word) = 0),
    blockInv_of (by decide) (by decide) (by decide) (by decide) (by decide) (by decide)
      (by decide : (0 : Word) = 0 ∧ (0 : Word) = 0)⟩,
    table_ready.2.2.1, table_ready.2.2.2, by decide, by decide, by decide⟩

/-- Step W1 with a bus error, and below and above the table of n = 6 at 0x1000. -/
theorem witness_EngineWritesOnlyTheTable : BlockInv (startTable (accepted true 3 6 7 0x1000)) ∧
    (∃ t, engineTurn .error (startTable (accepted true 3 6 7 0x1000)) = .next t) ∧
    ∀ i b, decodeWord (startTable (accepted true 3 6 7 0x1000)).lop = .ok i → tableWidth i = some b →
      0x1003 < (startTable (accepted true 3 6 7 0x1000)).la2.toNat + b.bytes ∧
      (startTable (accepted true 3 6 7 0x1000)).la2.toNat +
        (opN (startTable (accepted true 3 6 7 0x1000)) + 1) * b.bytes ≤ 0x1038 := by
  refine ⟨witness_InvariantIsKept.2.2.1, exists_next (by decide), fun i b _ _ => ?_⟩
  cases b <;> decide

/-- Reset asserted; and reset in each step of the table sequence. -/
theorem witness_reset : { idleBlock true with inReset := true }.inReset = true ∧
    ∀ q : SeqPoint, ∃ t, perform .resetAssert (inTable 3 6 7 0x1000 q 2 1) = .next t :=
  ⟨rfl, fun _ => ⟨_, rfl⟩⟩

/-- The last 8 bytes of the address space. -/
theorem witness_MemoryPortIsLittleEndian : Memory.wf [] = true ∧ (2 ^ 64 - 8) + 8 ≤ 2 ^ 64 := by decide

/-- A table in EXEC, an agent that reads it and one that writes it; the first also in a state of the invariant. -/
theorem witness_agents :
    (BlockInv (startTable (accepted true 3 6 7 0x1000)) ∧
      runningTable (startTable (accepted true 3 6 7 0x1000)) = some .w4 ∧
      ∃ t, agentRead 0x1004 8 (startTable (accepted true 3 6 7 0x1000)) = .next t) ∧
    runningTable (inTable 3 6 7 0x1000 .ra 2 0) = some .w4 ∧
    runningTable (idleBlock true) = none ∧
    (inTable 3 6 7 0x1000 .ra 2 0).mem.wf = true ∧ (inTable 3 6 7 0x1000 .ra 2 0).memOld.wf = true ∧
    (∃ t, agentRead 0x1004 8 (inTable 3 6 7 0x1000 .ra 2 0) = .next t) ∧
    (∃ t, agentWrite 0x1004 [1#8, 2#8] (inTable 3 6 7 0x1000 .ra 2 0) = .next t) := by
  refine ⟨⟨witness_InvariantIsKept.2.2.1, by decide, exists_next (by decide)⟩, by decide, by decide, by decide,
    by decide, exists_next (by decide), exists_next (by decide)⟩

end Sys2Proof.Tests
end

section
/-!
PROOFS of the family 00_scope.md. The integer square root is `Nat.sqrt`; the circle count and the divisor sum are
bounded by closed forms in it, which the ceilings of R8 keep inside 63 bits; a command that touches no memory runs one shared
operation, whose check and result read the latch and WIDE128 alone (R10).
-/

namespace Sys2Proof.Machine

/-! ### The integer square root -/

/-- With the root known to lie in [r, r + 2^k), settling k bits from r finds it. -/
theorem isqrtBits_eq_sqrt {n k r : Nat} (hlo : r * r ≤ n) (hhi : n < (r + 2 ^ k) * (r + 2 ^ k)) :
    isqrtBits n k r = Nat.sqrt n := by
  induction k generalizing r with
  | zero => exact Nat.eq_sqrt.2 ⟨hlo, by simpa [isqrtBits] using hhi⟩
  | succ k ih =>
    have hpow : r + 2 ^ (k + 1) = r + 2 ^ k + 2 ^ k := by rw [pow_succ]; omega
    rw [hpow] at hhi
    unfold isqrtBits
    split
    case isTrue hbit => exact ih hbit hhi
    case isFalse hbit => exact ih hlo (by omega)

/-- 41_sqrt.md R140: the bits settled from `log2 n / 2` down give the floor of the square root. -/
theorem isqrt_eq_sqrt (n : Nat) : isqrt n = Nat.sqrt n := by
  refine isqrtBits_eq_sqrt (Nat.zero_le n) ?_
  calc n < 2 ^ (n.log2 + 1) := Nat.lt_log2_self
    _ ≤ 2 ^ ((n.log2 / 2 + 1) + (n.log2 / 2 + 1)) := Nat.pow_le_pow_right (by omega) (by omega)
    _ = (0 + 2 ^ (n.log2 / 2 + 1)) * (0 + 2 ^ (n.log2 / 2 + 1)) := by rw [pow_add]; simp

theorem isqrt_mul_self_le (n : Nat) : isqrt n * isqrt n ≤ n := isqrt_eq_sqrt n ▸ Nat.sqrt_le n

theorem lt_isqrt_succ_mul_self (n : Nat) : n < (isqrt n + 1) * (isqrt n + 1) :=
  isqrt_eq_sqrt n ▸ Nat.lt_succ_sqrt n

theorem isqrt_lt_of_lt_mul_self {n k : Nat} (h : n < k * k) : isqrt n < k :=
  isqrt_eq_sqrt n ▸ Nat.sqrt_lt.2 h

/-! ### The lattice counts

The arc of radius r lies below the parabola `r - x^2 / (2r)`, since `2 * r * y ≤ y^2 + r^2`. So the disc has less than
10/3 of r^2 points and a linear rest, where the square around it would give 4 and pass the bound of R197. -/

/-- The column at x of the circle of radius `r = isqrt n + 1`, by the parabola over it. -/
theorem mul_circColumn_le (n : Nat) (x : Int) (hx : x.natAbs ≤ isqrt n) :
    ((isqrt n : Int) + 1) * circColumn n x ≤ ((isqrt n : Int) + 1) * (2 * isqrt n + 3) - x ^ 2 := by
  have hxn : x.natAbs * x.natAbs ≤ n := (Nat.mul_le_mul hx hx).trans (isqrt_mul_self_le n)
  have hy := isqrt_mul_self_le (n - x.natAbs * x.natAbs)
  have hn := lt_isqrt_succ_mul_self n
  have hdisc : isqrt (n - x.natAbs * x.natAbs) * isqrt (n - x.natAbs * x.natAbs) + x.natAbs * x.natAbs <
      (isqrt n + 1) * (isqrt n + 1) := by omega
  zify at hdisc
  rw [abs_mul_abs_self] at hdisc
  unfold circColumn
  push_cast
  nlinarith [sq_nonneg ((isqrt n : Int) + 1 - isqrt (n - x.natAbs * x.natAbs))]

/-- The squares of `-s, 1 - s, ..`, k of them. -/
theorem sum_sq_sub (s : Int) (k : Nat) :
    6 * ∑ j ∈ Finset.range k, ((j : Int) - s) ^ 2 = k * (6 * s ^ 2 - 6 * s * (k - 1) + (k - 1) * (2 * k - 1)) := by
  induction k with
  | zero => simp
  | succ k ih => rw [Finset.sum_range_succ, mul_add, ih]; push_cast; ring

/-- C(n) is at most 10/3 of isqrt(n)^2 and a linear rest. -/
theorem circFullCount_le (n : Nat) : 3 * circFullCount n ≤ 10 * (isqrt n * isqrt n) + 23 * isqrt n + 9 := by
  have hcols : ((isqrt n : Int) + 1) * circFullCount n ≤ ∑ j ∈ Finset.range (2 * isqrt n + 1),
      (((isqrt n : Int) + 1) * (2 * isqrt n + 3) - ((j : Int) - isqrt n) ^ 2) := by
    rw [circFullCount, sumFrom_eq]
    simp only [Nat.zero_add]
    push_cast
    rw [Finset.mul_sum]
    refine Finset.sum_le_sum fun j hj => mul_circColumn_le n _ ?_
    have := Finset.mem_range.1 hj
    omega
  have hsq := sum_sq_sub (isqrt n) (2 * isqrt n + 1)
  rw [Finset.sum_sub_distrib, Finset.sum_const, Finset.card_range, nsmul_eq_mul] at hcols
  push_cast at hcols hsq
  have hr : (0 : Int) < isqrt n + 1 := by omega
  have hscaled : ((isqrt n : Int) + 1) * (3 * circFullCount n) ≤
      (isqrt n + 1) * (10 * (isqrt n * isqrt n) + 23 * isqrt n + 9) := by linarith
  exact_mod_cast le_of_mul_le_mul_left hscaled hr

/-- Q(n) is at most the n of the square of side isqrt(n). -/
theorem circQuadCount_le (n : Nat) : circQuadCount n ≤ n := by
  have hcol : ∀ x ∈ Finset.range (isqrt n), isqrt (n - (1 + x) * (1 + x)) ≤ isqrt n := fun x _ => by
    rw [isqrt_eq_sqrt, isqrt_eq_sqrt]
    exact Nat.sqrt_le_sqrt (Nat.sub_le _ _)
  calc circQuadCount n = ∑ x ∈ Finset.range (isqrt n), isqrt (n - (1 + x) * (1 + x)) := by
        rw [circQuadCount, sumFrom_eq, Nat.zero_add]
    _ ≤ isqrt n * isqrt n := by simpa using Finset.sum_le_card_nsmul _ _ _ hcol
    _ ≤ n := isqrt_mul_self_le n

/-! ### The divisor sum -/

/-- `n div i` summed over i below 2^k: each of the k blocks [2^j, 2^(j+1)) gives at most n. -/
theorem sum_div_le (n k : Nat) : ∑ i ∈ Finset.Ico 1 (2 ^ k), n / i ≤ k * n := by
  induction k with
  | zero => simp
  | succ k ih =>
    have hterm : ∀ i ∈ Finset.Ico (2 ^ k) (2 ^ (k + 1)), n / i ≤ n / 2 ^ k := fun i hi =>
      Nat.div_le_div_left (Finset.mem_Ico.1 hi).1 (by positivity)
    have hcard : 2 ^ (k + 1) - 2 ^ k = 2 ^ k := by rw [pow_succ]; omega
    have hblock : ∑ i ∈ Finset.Ico (2 ^ k) (2 ^ (k + 1)), n / i ≤ n := by
      calc _ ≤ 2 ^ k * (n / 2 ^ k) := by simpa [hcard] using Finset.sum_le_card_nsmul _ _ _ hterm
        _ ≤ n := Nat.mul_div_le _ _
    rw [← Finset.sum_Ico_consecutive _ Nat.one_le_two_pow (Nat.pow_le_pow_right (by omega) (Nat.le_succ k))]
    linarith

/-- D(n) is at most 2*k*n when the root has k bits. -/
theorem divisorSum_le {n k : Nat} (h : isqrt n < 2 ^ k) : divisorSum n ≤ 2 * (k * n) := by
  have hsum : sumFrom (fun i => n / i) (isqrt n) 1 0 ≤ k * n := by
    calc sumFrom (fun i => n / i) (isqrt n) 1 0 = ∑ i ∈ Finset.Ico 1 (isqrt n + 1), n / i := by
          rw [sumFrom_eq, Nat.zero_add, Finset.sum_Ico_eq_sum_range, Nat.add_sub_cancel]
      _ ≤ ∑ i ∈ Finset.Ico 1 (2 ^ k), n / i :=
          Finset.sum_le_sum_of_subset (Finset.Ico_subset_Ico_right h)
      _ ≤ k * n := sum_div_le n k
  unfold divisorSum
  omega

/-! ### The products of the inverse recurrence -/

/-- The product of step Wa stays below half of m^2, since the divisor is at least 2. -/
theorem two_mul_div_mul_lt {m i v : Nat} (hi : 2 ≤ i) (hv : v < m) : 2 * (m / i * v) < m * m := by
  have hdiv : 2 * (m / i) ≤ m :=
    (Nat.mul_le_mul_left 2 (Nat.div_le_div_left hi (by omega))).trans (Nat.mul_div_le m 2)
  calc 2 * (m / i * v) = 2 * (m / i) * v := by ring
    _ ≤ m * v := Nat.mul_le_mul_right v hdiv
    _ < m * m := Nat.mul_lt_mul_of_pos_left hv (by omega)

/-! ### Commands that touch no memory -/

/-- A command that touches no memory runs the shared one-step operation with its own check and result
(40_command_interface.md R118 to R120). -/
theorem exec_oneStep {i : Instr} (hw : tableWidth i = none) (s : State) :
    exec i s = oneStepCommand (checkOf i) (resultOf i) s := by
  cases i with
  | sqrt64 | sqrt128 | circfull | circquad | divsum => rfl
  | invtab32 | invtab64 => cases hw

/-- The check of such a command reads L.op, L.a0 and WIDE128 alone. -/
theorem checkOf_congr {i : Instr} {s s' : State} (hw : tableWidth i = none) (hop : s.lop = s'.lop)
    (h0 : s.la0 = s'.la0) (hwide : s.cfg.wide128 = s'.cfg.wide128) : checkOf i s = checkOf i s' := by
  cases i with
  | sqrt64 => rfl
  | sqrt128 => simp only [checkOf, checkSqrt128, hop, hwide]
  | circfull | circquad => simp only [checkOf, checkCirc, h0, hwide]
  | divsum => simp only [checkOf, checkDivsum, h0, hwide]
  | invtab32 | invtab64 => cases hw

/-- The result of any command reads L.a0 and L.a1 alone. -/
theorem resultOf_congr {s s' : State} (i : Instr) (h0 : s.la0 = s'.la0) (h1 : s.la1 = s'.la1) :
    resultOf i s = resultOf i s' := by
  cases i <;> simp only [resultOf, wideOperand, opN, h0, h1]

end Sys2Proof.Machine

open Sys2Proof Sys2Proof.Machine

/-- Settles O28: the closed bounds on C, Q and D, taken at the root bounds that the ceilings give. -/
theorem ceilingsBoundTheResults : Obligations.CeilingsBoundTheResults := by
  refine ⟨fun n hn => ?_, fun n hn => ?_, fun m i v hi hv => ?_, fun n hn => ?_⟩
  · have hroot : isqrt n < 2 ^ 31 := isqrt_lt_of_lt_mul_self (by omega)
    have hsq := isqrt_mul_self_le n
    have hfull := circFullCount_le n
    have hquad := circQuadCount_le n
    omega
  · have hroot : isqrt n < 2 ^ 29 := isqrt_lt_of_lt_mul_self (by omega)
    have := divisorSum_le hroot
    omega
  · have hprod := two_mul_div_mul_lt hi hv
    refine ⟨hprod, fun hm => ?_⟩
    have hsq : m * m < 2 ^ 32 * 2 ^ 32 := Nat.mul_lt_mul'' hm hm
    omega
  · have hroot : isqrt n < 2 ^ 32 := isqrt_lt_of_lt_mul_self (by omega)
    have hsq := isqrt_mul_self_le n
    have hfull := circFullCount_le n
    have hdiv := divisorSum_le hroot
    omega

/-- Settles O29: both runs take the same branch of the one-step operation, with the same check and the same result. -/
theorem outcomeDependsOnlyOnLatch : Obligations.OutcomeDependsOnlyOnLatch := by
  intro i s s' t t' hw hphase hop h0 h1 hwide ht ht'
  have hcheck : checkOf i s = checkOf i s' := checkOf_congr hw hop h0 hwide
  have hresult : resultOf i s = resultOf i s' := resultOf_congr i h0 h1
  rw [exec_oneStep hw, oneStepCommand_eq] at ht ht'
  rw [← hphase, ← hcheck, ← hresult] at ht'
  cases hp : s.phase <;> simp only [hp, Host.Outcome.next.injEq] at ht ht' <;> subst ht ht'
  case idle => simp [hp, ← hphase]
  case validate =>
    cases checkOf i s with
    | none => simp [validateWith]
    | some report => simp [validateWith]
  case exec => simp
end

section
/-!
PROOFS of the family 10_state.md. What one turn of the engine, and then one event, can leave is said once, as
`TurnEffect` and `EventEffect`; the rules about single registers and the invariant of the block are read off their cases.
-/

namespace Sys2Proof.Machine

/-! ### What a turn of the engine can leave -/

/-- A step of a running command that neither ends it nor is answered with a bus error: the entry into EXEC
(40_command_interface.md R119), or one of W1, Ra, Wa (42_invtab.md R162). -/
inductive Advance (i : Instr) (s : State) : State → Prop where
  | enter (hp : s.phase = .validate) (hc : checkOf i s = none) (hw : tableWidth i = none) : Advance i s (enterExec s)
  | start (b : ElemWidth) (hp : s.phase = .validate) (hc : checkOf i s = none) (hw : tableWidth i = some b)
      (hr : tableRefusal b s = none) : Advance i s (startTable s)
  | seed (b : ElemWidth) (hp : s.phase = .exec) (hw : tableWidth i = some b) (hseq : s.seq = .w1)
      (hsp : inSpace b (entryAddr b s 1) = true) : Advance i s (seedWritten (putEntry b (entryAddr b s 1) 1 s))
  | read (b : ElemWidth) (v : Nat) (hp : s.phase = .exec) (hw : tableWidth i = some b) (hseq : s.seq = .ra)
      (hi : s.idx.toNat ≤ opN s) (hr : opM s % s.idx.toNat ≠ 0) : Advance i s (entryRead v s)
  | write (b : ElemWidth) (hp : s.phase = .exec) (hw : tableWidth i = some b) (hseq : s.seq = .wa)
      (hsp : inSpace b (entryAddr b s s.idx.toNat) = true) :
      Advance i s (entryWritten (putEntry b (entryAddr b s s.idx.toNat) (entryValue s) s))

/-- What one step of a command can leave: nothing at IDLE, a fault with some memory and draw counter, the command's
result, or a step further on. -/
inductive CommandEffect (i : Instr) (s : State) : State → Prop where
  | stay (hp : s.phase = .idle) : CommandEffect i s s
  | fault (c : ErrCode) (w : Word) (m : Memory) (d : Nat) (hp : s.phase ≠ .idle) (hc : c ≠ .none)
      (hm : s.mem.wf = true → m.wf = true) : CommandEffect i s (raiseFault c w { s with mem := m, draws := d })
  | finish (hp : s.phase = .exec) : CommandEffect i s (complete (resultOf i s) s)
  | advance (t : State) (ht : Advance i s t) : CommandEffect i s t

theorem wf_putEntry {b : ElemWidth} {addr : Nat} {s : State} (v : Nat) (h : inSpace b addr = true)
    (hm : s.mem.wf = true) : (putEntry b addr v s).mem.wf = true :=
  Memory.wf_writeLE hm (of_decide_eq_true h)

theorem wf_spoilEntry {b : ElemWidth} {addr : Nat} {s : State} (h : inSpace b addr = true) (hm : s.mem.wf = true) :
    (spoilEntry b addr s).mem.wf = true :=
  Memory.wf_writeBytes hm (by simpa [inSpace] using h)

/-- A table command ends with n in RES (42_invtab.md R162, step END). -/
theorem resultOf_table {i : Instr} {b : ElemWidth} (hw : tableWidth i = some b) (s : State) :
    resultOf i s = opN s := by
  cases i with
  | invtab32 | invtab64 => rfl
  | sqrt64 | sqrt128 | circfull | circquad | divsum => cases hw

theorem TableEffect.commandEffect {i : Instr} {b : ElemWidth} {s t : State} (h : TableEffect b s t)
    (hp : s.phase = .exec) (hw : tableWidth i = some b) : CommandEffect i s t := by
  have hrun : s.phase ≠ .idle := by simp [hp]
  cases h with
  | seed hseq hsp _ ht => exact ht ▸ .advance _ (.seed b hp hw hseq hsp)
  | read hseq hi hr _ _ ht => exact ht ▸ .advance _ (.read b _ hp hw hseq hi hr)
  | write hseq hsp _ ht => exact ht ▸ .advance _ (.write b hp hw hseq hsp)
  | finish _ _ ht => exact ht ▸ resultOf_table hw s ▸ .finish hp
  | noncoprime _ _ _ ht => exact ht ▸ .fault _ _ s.mem s.draws hrun (by simp) id
  | readError _ _ _ _ _ ht => exact ht ▸ .fault _ _ s.mem s.draws hrun (by simp) id
  | seedError _ hsp _ ht => exact ht ▸ .fault _ _ _ (s.draws + b.bytes) hrun (by simp) (wf_spoilEntry hsp)
  | writeError _ hsp _ ht => exact ht ▸ .fault _ _ _ (s.draws + b.bytes) hrun (by simp) (wf_spoilEntry hsp)

theorem exec_commandEffect {i : Instr} {s t : State} (h : exec i s = .next t) : CommandEffect i s t := by
  cases exec_next h with
  | idle hp ht => subst ht; exact .stay hp
  | invalid hp c w hc ht => exact ht ▸ .fault c w s.mem s.draws (by simp [hp]) (checkOf_code hc) id
  | enter hp hc hw ht => exact ht ▸ .advance _ (.enter hp hc hw)
  | start hp b hc hw hr ht => exact ht ▸ .advance _ (.start b hp hc hw hr)
  | finish hp _ ht => exact ht ▸ .finish hp
  | table hp b hw he => exact he.commandEffect hp hw

/-- A step further on is in EXEC and changes nothing of the outcome and nothing the host wrote. -/
theorem Advance.frame {i : Instr} {s t : State} (h : Advance i s t) :
    ∃ ph p x v q m, ph = .exec ∧
      t = { s with phase := ph, progress := p, idx := x, tmpv := v, seq := q, mem := m } := by
  cases h with
  | enter | start => exact ⟨_, _, _, _, _, _, rfl, rfl⟩
  | seed _ hp | read _ _ hp | write _ hp => exact ⟨_, _, _, _, _, _, hp, rfl⟩

/-- No step of a command writes what the host wrote or what stands outside the block. -/
theorem CommandEffect.sameOutside {i : Instr} {s t : State} (h : CommandEffect i s t) : SameOutside s t := by
  cases h with
  | stay | fault | finish => simp [SameOutside]
  | advance _ ht =>
    obtain ⟨_, _, _, _, _, _, -, rfl⟩ := ht.frame
    simp [SameOutside]

/-- What the engine's turn can leave: nothing happens at IDLE or under reset, an illegal word ends with its fault, a
command takes a step (40_command_interface.md R118, R119). -/
inductive TurnEffect (r : BusReply) (s : State) : State → Prop where
  | stay (hidle : s.inReset = true ∨ s.phase = .idle) : TurnEffect r s s
  | fault (c : ErrCode) (w : Word) (m : Memory) (d : Nat) (hin : s.inReset = false) (hp : s.phase ≠ .idle)
      (hc : c ≠ .none) (hm : s.mem.wf = true → m.wf = true) :
      TurnEffect r s (raiseFault c w { s with bus := r, mem := m, draws := d })
  | finish (i : Instr) (hin : s.inReset = false) (hp : s.phase = .exec) (hop : decodeWord s.lop = .ok i) :
      TurnEffect r s (complete (resultOf i s) { s with bus := r })
  | advance (i : Instr) (t : State) (hin : s.inReset = false) (hp : s.phase ≠ .idle) (hop : decodeWord s.lop = .ok i)
      (ht : Advance i { s with bus := r } t) : TurnEffect r s t

theorem engineTurn_effect {r : BusReply} {s t : State} (h : engineTurn r s = .next t) : TurnEffect r s t := by
  obtain ⟨hidle, rfl⟩ | ⟨hin, hp, ⟨i, hop, he⟩ | ⟨e, -, rfl⟩⟩ := engineTurn_next h
  · exact .stay hidle
  · cases exec_commandEffect he with
    | stay hidle => exact absurd hidle hp
    | fault c w m d _ hc hm => exact .fault c w m d hin hp hc hm
    | finish hexec => exact resultOf_congr (s' := s) i rfl rfl ▸ .finish i hin hexec hop
    | advance _ ht => exact .advance i _ hin hp hop ht
  · exact .fault _ _ s.mem s.draws hin hp (by simp) id

/-! ### What one event can leave -/

/-- What reset leaves of a write in flight: some memory and some draw counter (70_reset_and_hazards.md R272). -/
theorem landInFlight_frame (s : State) :
    ∃ m d, landInFlight s = { s with mem := m, draws := d } ∧ (s.mem.wf = true → m.wf = true) := by
  obtain ⟨-, h⟩ | ⟨b, addr, v, hw, h | h⟩ := landInFlight_cases s
  · exact ⟨s.mem, s.draws, h, id⟩
  · exact ⟨_, _, h, wf_putEntry v (inFlightWrite_some hw).2.2⟩
  · exact ⟨s.mem, _, h, id⟩

/-- What one event can leave, before irq is evaluated again. A host write reaches CTRL and the operands, STATUS or CMD,
or has no effect. -/
inductive EventEffect (s : State) : Event → State → Prop where
  | hostRead (width off : Nat) (v : Word) (hin : s.inReset = false) :
      EventEffect s (.hostRead width off) { s with hostT := v }
  | operand (width off : Nat) (v a0 a1 a2 : Word) (ie : Bool) (hin : s.inReset = false) :
      EventEffect s (.hostWrite width off v) { s with ie := ie, arg0 := a0, arg1 := a1, arg2 := a2 }
  | ack (v : Word) (hin : s.inReset = false) : EventEffect s (.hostWrite 8 0x18 v) (clearStatus v s)
  | drop (v : Word) (hin : s.inReset = false) (hb : s.busy = true) :
      EventEffect s (.hostWrite 8 0x10 v) { s with cmdOvf := true }
  | accept (v : Word) (hin : s.inReset = false) (hb : s.busy = false) :
      EventEffect s (.hostWrite 8 0x10 v) (accept v s)
  | turn (r : BusReply) (t : State) (ht : TurnEffect r s t) : EventEffect s (.engine r) t
  | agentWrite (addr : Word) (bytes : List Byte) (hsp : addr.toNat + bytes.length ≤ 2 ^ 64) :
      EventEffect s (.agentWrite addr bytes) { s with
        mem := s.mem.writeBytes addr.toNat bytes, memOld := s.memOld.writeBytes addr.toNat bytes }
  | agentRead (addr : Word) (len : Nat) (bytes : List Byte) (d : Nat) :
      EventEffect s (.agentRead addr len) { s with agentData := bytes, draws := d }
  | resetAssert (m : Memory) (d : Nat) (hm : s.mem.wf = true → m.wf = true) :
      EventEffect s .resetAssert { resetBlock { s with mem := m, draws := d } with inReset := true }
  | resetRelease : EventEffect s .resetRelease (releaseReset s)

/-- The slots that a host write has an effect of its own in stand at one offset each (10_state.md R20). -/
theorem slotOf_eq_cmd {off : Nat} (h8 : off % 8 = 0) (h : slotOf off = .cmd) : off = 0x10 := by
  unfold slotOf at h
  split at h <;> first | omega | cases h

theorem slotOf_eq_status {off : Nat} (h8 : off % 8 = 0) (h : slotOf off = .status) : off = 0x18 := by
  unfold slotOf at h
  split at h <;> first | omega | cases h

theorem writeSlot_effect {off : Nat} {s : State} (v : Word) (hin : s.inReset = false) (h8 : off % 8 = 0) :
    EventEffect s (.hostWrite 8 off v) (writeSlot (slotOf off) v s) := by
  cases hslot : slotOf off with
  | cmd =>
    obtain rfl := slotOf_eq_cmd h8 hslot
    by_cases hb : s.busy = true
    · simpa only [writeSlot, writeCmd, if_pos hb] using .drop v hin hb
    · simpa only [writeSlot, writeCmd, if_neg hb] using .accept v hin (by simpa using hb)
  | status =>
    obtain rfl := slotOf_eq_status h8 hslot
    exact .ack v hin
  | ctrl => exact .operand _ _ _ s.arg0 s.arg1 s.arg2 _ hin
  | arg0 => exact .operand _ _ _ _ s.arg1 s.arg2 s.ie hin
  | arg1 => exact .operand _ _ _ s.arg0 _ s.arg2 s.ie hin
  | arg2 => exact .operand _ _ _ s.arg0 s.arg1 _ s.ie hin
  | cap | resLo | resHi | errinfo | progress | reserved => exact .operand _ _ _ s.arg0 s.arg1 s.arg2 s.ie hin

/-- An event that goes on leaves one of its effects, up to the irq line, which a host write has evaluated already. -/
theorem perform_effect {e : Event} {s t : State} (h : perform e s = .next t) :
    ∃ u, EventEffect s e u ∧ refreshIrq t = refreshIrq u := by
  cases e with
  | hostRead width off =>
    obtain ⟨hin, -, rfl⟩ := hostRead_next h
    exact ⟨_, .hostRead width off _ hin, rfl⟩
  | hostWrite width off v =>
    obtain ⟨hin, hacc, rfl⟩ := hostWrite_next h
    obtain ⟨rfl, h8, -⟩ := accessRefusal_eq_none.1 hacc
    exact ⟨_, writeSlot_effect v hin h8, rfl⟩
  | engine r => exact ⟨_, .turn r _ (engineTurn_effect h), rfl⟩
  | agentWrite addr bytes =>
    obtain ⟨hsp, rfl⟩ := agentWrite_next h
    exact ⟨_, .agentWrite addr bytes hsp, rfl⟩
  | agentRead addr len =>
    obtain ⟨-, rfl⟩ := agentRead_next h
    exact ⟨_, .agentRead addr len _ _, rfl⟩
  | resetAssert =>
    obtain ⟨m, d, hland, hm⟩ := landInFlight_frame s
    injection h with h
    exact ⟨_, .resetAssert m d hm, by rw [← h, assertReset, hland]⟩
  | resetRelease =>
    injection h with h
    exact ⟨_, .resetRelease, by rw [← h]⟩

/-- A step that goes on takes one event off the schedule, or is a turn of the engine when nothing is scheduled, and then
irq follows (10_state.md R37). -/
theorem step_effect {s t : State} (h : step s = .next t) :
    ∃ e rest u, EventEffect { s with schedule := rest } e u ∧ t = refreshIrq u ∧
      (s.schedule = e :: rest ∨ e = .engine .ok) := by
  obtain ⟨t', htake, rfl⟩ := step_next h
  rw [takeEvent_eq] at htake
  cases hs : s.schedule with
  | nil =>
    rw [hs] at htake
    exact ⟨.engine .ok, [], t', .turn _ _ (engineTurn_effect (hs ▸ htake)), rfl, .inr rfl⟩
  | cons e rest =>
    rw [hs] at htake
    obtain ⟨u, hu, hirq⟩ := perform_effect htake
    exact ⟨e, rest, u, hu, hirq, .inl rfl⟩

end Sys2Proof.Machine

namespace Sys2Proof.Machine

/-! ### The invariant of the block -/

/-- The invariant of the block without its rule about irq, which every step establishes afresh. -/
structure Coherent (s : State) : Prop where
  status : StatusCoherent s
  memory : MemoryCanonical s
  reset : ResetCoherent s
  engine : EngineCoherent s
  view : ViewCoherent s

theorem BlockInv.coherent {s : State} (h : BlockInv s) : Coherent s := by
  obtain ⟨hstatus, -, hmem, hreset, hengine, hview⟩ := h
  exact ⟨hstatus, hmem, hreset, hengine, hview⟩

theorem BlockAtReset.refreshIrq {s : State} (h : BlockAtReset s) : BlockAtReset (refreshIrq s) := by
  simp_all [BlockAtReset]

theorem Coherent.blockInv {s : State} (h : Coherent s) : BlockInv (refreshIrq s) :=
  ⟨h.status, rfl, h.memory, fun hin => (h.reset hin).refreshIrq, h.engine, h.view⟩

/-- At IDLE nothing is asked of the engine and of the other agents' view. -/
theorem Coherent.of_idle {s : State} (hp : s.phase = .idle) (hstatus : StatusCoherent s) (hmem : MemoryCanonical s)
    (hreset : ResetCoherent s) : Coherent s :=
  ⟨hstatus, hmem, hreset, by simp [EngineCoherent, hp], by simp [ViewCoherent, hp]⟩

theorem resetCoherent_of_released {s : State} (hin : s.inReset = false) : ResetCoherent s :=
  fun h => absurd h (by simp [hin])

theorem Coherent.busy_of_running {s : State} (h : Coherent s) (hp : s.phase ≠ .idle) : s.busy = true := by
  obtain ⟨hbusy, -⟩ := h.status
  exact hbusy.2 hp

/-- A running command shows no outcome (40_command_interface.md R117); ERRINFO is what its end may leave standing. -/
theorem Coherent.errinfo_of_running {s : State} (h : Coherent s) (hp : s.phase ≠ .idle) : s.errinfo = 0 := by
  obtain ⟨-, houtcome, -⟩ := h.status
  obtain ⟨-, -, -, hinfo⟩ := houtcome (h.busy_of_running hp)
  exact hinfo

theorem runningTable_exec {i : Instr} {s : State} (hp : s.phase = .exec) (hop : decodeWord s.lop = .ok i) :
    runningTable s = tableWidth i := by
  simp [runningTable, hp, hop]

section InExec

variable {i : Instr} {b : ElemWidth} {s : State} (hp : s.phase = .exec) (hop : decodeWord s.lop = .ok i)

include hp hop

/-- A command in EXEC has passed its checks (40_command_interface.md R119). -/
theorem EngineCoherent.checkOf_eq_none (hs : EngineCoherent s) : checkOf i s = none := by
  simp only [EngineCoherent, hp, hop, Except.ok.injEq] at hs
  obtain ⟨_, rfl, hc, -⟩ := hs
  exact hc

theorem engineCoherent_register_iff (hw : tableWidth i = none) :
    EngineCoherent s ↔ checkOf i s = none ∧ s.progress = 0 := by
  simp [EngineCoherent, hp, hop, hw]

theorem engineCoherent_table_iff (hw : tableWidth i = some b) :
    EngineCoherent s ↔ TableOperandsValid b s ∧ TableCoherent b s := by
  simp [EngineCoherent, hp, hop, hw, checkOf_table hw, checkInvtab_eq_none]

theorem viewCoherent_register_iff (hw : tableWidth i = none) : ViewCoherent s ↔ s.memOld = s.mem := by
  simp [ViewCoherent, hp, runningTable_exec hp hop, hw]

theorem viewCoherent_table_iff (hw : tableWidth i = some b) :
    ViewCoherent s ↔ ∀ a, (a < s.la2.toNat + b.bytes ∨ s.la2.toNat + (s.progress.toNat + 1) * b.bytes ≤ a) →
      s.memOld.readByte a = s.mem.readByte a := by
  simp only [ViewCoherent, hp, runningTable_exec hp hop, hw]

end InExec

section TablePlace

variable {b : ElemWidth} {s : State}

/-- Where a table command stands before each step of 42_invtab.md R162. -/
theorem TableCoherent.at_w1 (h : TableCoherent b s) (hseq : s.seq = .w1) : s.progress.toNat = 0 := by
  obtain ⟨-, hplace⟩ := h
  simp only [hseq] at hplace
  exact hplace.2

theorem TableCoherent.at_ra (h : TableCoherent b s) (hseq : s.seq = .ra) :
    2 ≤ s.idx.toNat ∧ s.progress.toNat + 1 = s.idx.toNat := by
  obtain ⟨-, hplace⟩ := h
  simp only [hseq] at hplace
  exact ⟨hplace.1, hplace.2.2⟩

theorem TableCoherent.at_wa (h : TableCoherent b s) (hseq : s.seq = .wa) :
    2 ≤ s.idx.toNat ∧ s.idx.toNat ≤ opN s ∧ s.progress.toNat + 1 = s.idx.toNat := by
  obtain ⟨-, hplace⟩ := h
  simp only [hseq] at hplace
  exact ⟨hplace.1, hplace.2.1, hplace.2.2.1⟩

end TablePlace

theorem opN_lt (s : State) : opN s < 2 ^ 63 := by
  have := sval_range s.la0
  unfold opN
  omega

theorem TableOperandsValid.one_le_opN {b : ElemWidth} {s : State} (h : TableOperandsValid b s) : 1 ≤ opN s := by
  have hn := h.1
  unfold opN
  omega

/-! ### A step of a running command keeps the invariant -/

section Advance

variable {i : Instr} {s t : State}

theorem Advance.statusCoherent (h : Advance i s t) (hb : s.busy = true) (hs : StatusCoherent s) : StatusCoherent t := by
  obtain ⟨-, houtcome⟩ := hs
  obtain ⟨_, _, _, _, _, _, rfl, rfl⟩ := h.frame
  exact ⟨by simp [hb], houtcome⟩

theorem Advance.memoryCanonical (h : Advance i s t) (hs : MemoryCanonical s) : MemoryCanonical t := by
  obtain ⟨hmem, hold⟩ := hs
  cases h with
  | enter | start | read => exact ⟨hmem, hold⟩
  | seed _ _ _ _ hsp | write _ _ _ _ hsp => exact ⟨wf_putEntry _ hsp hmem, hold⟩

theorem engineCoherent_validate_iff (hp : s.phase = .validate) : EngineCoherent s ↔ s.progress = 0 ∧ s.idx = 0 := by
  simp only [EngineCoherent, hp]

/-- A step further on stands in EXEC with the command it started with. -/
theorem Advance.exec_lop (h : Advance i s t) : t.phase = .exec ∧ t.lop = s.lop := by
  obtain ⟨_, _, _, _, _, _, rfl, rfl⟩ := h.frame
  exact ⟨rfl, rfl⟩

/-- Inside the sequence, idx stays above PROGRESS by one and reaches n + 1 at most (42_invtab.md R162). -/
theorem Advance.engineCoherent (h : Advance i s t) (hop : decodeWord s.lop = .ok i) (hs : EngineCoherent s) :
    EngineCoherent t := by
  obtain ⟨hpt, hlop⟩ := h.exec_lop
  have hopt : decodeWord t.lop = .ok i := hlop ▸ hop
  cases h with
  | enter hp hc hw =>
    have hprog := ((engineCoherent_validate_iff hp).1 hs).1
    exact (engineCoherent_register_iff hpt hopt hw).2 ⟨hc, hprog⟩
  | start b hp hc hw hr =>
    have hprog := ((engineCoherent_validate_iff hp).1 hs).1
    have hvalid := checkInvtab_eq_none.1 (checkOf_table hw ▸ hc)
    exact (engineCoherent_table_iff hpt hopt hw).2 ⟨hvalid, hr, rfl, congrArg BitVec.toNat hprog⟩
  | seed b hp hw hseq =>
    obtain ⟨hvalid, hplaced, -⟩ := (engineCoherent_table_iff hp hop hw).1 hs
    have hn := hvalid.one_le_opN
    exact (engineCoherent_table_iff hpt hopt hw).2 ⟨hvalid, hplaced, le_refl 2, Nat.succ_le_succ hn, rfl⟩
  | read b v hp hw hseq hi hr =>
    obtain ⟨hvalid, htable⟩ := (engineCoherent_table_iff hp hop hw).1 hs
    obtain ⟨h2, hprog⟩ := htable.at_ra hseq
    exact (engineCoherent_table_iff hpt hopt hw).2 ⟨hvalid, htable.1, h2, hi, hprog, hr⟩
  | write b hp hw hseq =>
    obtain ⟨hvalid, htable⟩ := (engineCoherent_table_iff hp hop hw).1 hs
    obtain ⟨h2, hi, -⟩ := htable.at_wa hseq
    have hn := opN_lt s
    have hsucc : (s.idx + 1).toNat = s.idx.toNat + 1 := by bv_omega
    have hlow : 2 ≤ (s.idx + 1).toNat := by omega
    have hhigh : (s.idx + 1).toNat ≤ opN s + 1 := by omega
    exact (engineCoherent_table_iff hpt hopt hw).2 ⟨hvalid, htable.1, hlow, hhigh, hsucc.symm⟩

theorem viewCoherent_validate_iff (hp : s.phase = .validate) : ViewCoherent s ↔ s.memOld = s.mem := by
  simp only [ViewCoherent, hp]

/-- Writing the entry next above PROGRESS leaves the two views equal outside the entries up to it. -/
theorem readByte_putEntry_above {b : ElemWidth} {k v : Nat}
    (hview : ∀ a, (a < s.la2.toNat + b.bytes ∨ s.la2.toNat + k * b.bytes ≤ a) →
      s.memOld.readByte a = s.mem.readByte a) (hk : 1 ≤ k) (a : Nat)
    (ha : a < s.la2.toNat + b.bytes ∨ s.la2.toNat + (k + 1) * b.bytes ≤ a) :
    s.memOld.readByte a = (putEntry b (entryAddr b s k) v s).mem.readByte a := by
  have hgrow : (k + 1) * b.bytes = k * b.bytes + b.bytes := Nat.succ_mul ..
  have hbase : b.bytes ≤ k * b.bytes := Nat.le_mul_of_pos_left _ hk
  rw [hview a (by omega), putEntry_mem, Memory.readByte_writeLE_other _ (by rw [entryAddr]; omega)]

/-- The entry a step writes is the one that PROGRESS takes in with it (20_memory.md R69). -/
theorem Advance.viewCoherent (h : Advance i s t) (hop : decodeWord s.lop = .ok i) (hengine : EngineCoherent s)
    (hs : ViewCoherent s) : ViewCoherent t := by
  obtain ⟨hpt, hlop⟩ := h.exec_lop
  have hopt : decodeWord t.lop = .ok i := hlop ▸ hop
  cases h with
  | enter hp hc hw => exact (viewCoherent_register_iff hpt hopt hw).2 ((viewCoherent_validate_iff hp).1 hs)
  | start b hp hc hw =>
    have hold := (viewCoherent_validate_iff hp).1 hs
    exact (viewCoherent_table_iff hpt hopt hw).2 fun a _ => congrArg (Memory.readByte · a) hold
  | read b v hp hw => exact (viewCoherent_table_iff hpt hopt hw).2 ((viewCoherent_table_iff hp hop hw).1 hs)
  | seed b hp hw hseq =>
    obtain ⟨-, htable⟩ := (engineCoherent_table_iff hp hop hw).1 hengine
    rw [viewCoherent_table_iff hp hop hw, htable.at_w1 hseq] at hs
    exact (viewCoherent_table_iff hpt hopt hw).2 (readByte_putEntry_above (k := 1) hs le_rfl)
  | write b hp hw hseq =>
    obtain ⟨-, htable⟩ := (engineCoherent_table_iff hp hop hw).1 hengine
    obtain ⟨h2, -, hprog⟩ := htable.at_wa hseq
    rw [viewCoherent_table_iff hp hop hw, hprog] at hs
    exact (viewCoherent_table_iff hpt hopt hw).2 (readByte_putEntry_above hs (by omega))

theorem Advance.coherent (h : Advance i s t) (hop : decodeWord s.lop = .ok i) (hp : s.phase ≠ .idle)
    (hin : s.inReset = false) (hs : Coherent s) : Coherent t where
  status := h.statusCoherent (hs.busy_of_running hp) hs.status
  memory := h.memoryCanonical hs.memory
  reset := by
    obtain ⟨_, _, _, _, _, _, -, rfl⟩ := h.frame
    exact resetCoherent_of_released hin
  engine := h.engineCoherent hop hs.engine
  view := h.viewCoherent hop hs.engine hs.view

end Advance

/-! ### Every event keeps the invariant -/

section Events

variable {s t : State}

theorem TurnEffect.coherent {r : BusReply} (h : TurnEffect r s t) (hs : Coherent s) : Coherent t := by
  obtain ⟨hmem, hold⟩ := hs.memory
  cases h with
  | stay => exact hs
  | fault c w m d hin hp hc hm =>
    exact .of_idle rfl ⟨by simp, by simp, by simp [hc]⟩ ⟨hm hmem, hold⟩ (resetCoherent_of_released hin)
  | finish i hin hp =>
    have hinfo : s.errinfo = 0 := hs.errinfo_of_running (by simp [hp])
    exact .of_idle rfl ⟨by simp, by simp, by simp [hinfo]⟩ ⟨hmem, hold⟩ (resetCoherent_of_released hin)
  | advance i _ hin hp hop ht =>
    exact ht.coherent hop hp hin ⟨hs.status, hs.memory, hs.reset, hs.engine, hs.view⟩

/-- A write by another agent lands in two memories alike. -/
theorem Memory.readByte_writeBytes_congr {m m' : Memory} (hm : m.wf = true) (hm' : m'.wf = true) {a : Nat}
    {bs : List Byte} (hsp : a + bs.length ≤ 2 ^ 64) {a' : Nat} (h : m.readByte a' = m'.readByte a') :
    (m.writeBytes a bs).readByte a' = (m'.writeBytes a bs).readByte a' := by
  by_cases hout : a' < a ∨ a + bs.length ≤ a'
  · rw [Memory.readByte_writeBytes_other m hout, Memory.readByte_writeBytes_other m' hout, h]
  · obtain ⟨k, rfl⟩ := Nat.exists_eq_add_of_le (show a ≤ a' by omega)
    rw [Memory.readByte_writeBytes_in hm hsp k (by omega), Memory.readByte_writeBytes_in hm' hsp k (by omega)]

/-- The views stay tied when memory changes under a command that stands where it stood and equal bytes stay equal. -/
theorem ViewCoherent.of_equal_bytes (hs : ViewCoherent s) (hphase : t.phase = s.phase) (hlop : t.lop = s.lop)
    (hbase : t.la2 = s.la2) (hprog : t.progress = s.progress) (heq : s.memOld = s.mem → t.memOld = t.mem)
    (hbyte : ∀ a, s.memOld.readByte a = s.mem.readByte a → t.memOld.readByte a = t.mem.readByte a) :
    ViewCoherent t := by
  have hrun : runningTable t = runningTable s := by simp only [runningTable, hphase, hlop]
  unfold ViewCoherent at hs ⊢
  rw [hphase, hrun, hbase, hprog]
  cases hp : s.phase with
  | idle => trivial
  | validate =>
    simp only [hp] at hs
    exact heq hs
  | exec =>
    cases hw : runningTable s with
    | none =>
      simp only [hp, hw] at hs
      exact heq hs
    | some b =>
      simp only [hp, hw] at hs
      exact fun a ha => hbyte a (hs a ha)

theorem EventEffect.coherent {e : Event} (h : EventEffect s e t) (hs : Coherent s) : Coherent t := by
  obtain ⟨hmem, hold⟩ := hs.memory
  cases h with
  | hostRead _ _ v hin => exact ⟨hs.status, hs.memory, hs.reset, hs.engine, hs.view⟩
  | operand _ _ v a0 a1 a2 ie hin =>
    exact ⟨hs.status, hs.memory, resetCoherent_of_released hin, hs.engine, hs.view⟩
  | ack v hin =>
    refine ⟨?_, hs.memory, resetCoherent_of_released hin, hs.engine, hs.view⟩
    obtain ⟨hbusy, hrun, hcode⟩ := hs.status
    exact ⟨hbusy, by simp_all [clearStatus], by simp_all [clearStatus]⟩
  | drop v hin => exact ⟨hs.status, hs.memory, resetCoherent_of_released hin, hs.engine, hs.view⟩
  | accept v hin hb =>
    exact ⟨⟨by simp, by simp, by simp⟩, ⟨hmem, hmem⟩, resetCoherent_of_released hin, ⟨rfl, rfl⟩, rfl⟩
  | turn r _ ht => exact ht.coherent hs
  | agentWrite addr bytes hsp =>
    exact ⟨hs.status, ⟨Memory.wf_writeBytes hmem hsp, Memory.wf_writeBytes hold hsp⟩, hs.reset, hs.engine,
      hs.view.of_equal_bytes rfl rfl rfl rfl (congrArg (Memory.writeBytes · addr.toNat bytes))
        fun _ => Memory.readByte_writeBytes_congr hold hmem hsp⟩
  | agentRead addr len bytes d => exact ⟨hs.status, hs.memory, hs.reset, hs.engine, hs.view⟩
  | resetAssert m d hm =>
    exact .of_idle rfl ⟨by simp, by simp, by simp⟩ ⟨hm hmem, hold⟩ fun _ => by simp [BlockAtReset]
  | resetRelease => exact ⟨hs.status, hs.memory, resetCoherent_of_released rfl, hs.engine, hs.view⟩

end Events

end Sys2Proof.Machine
namespace Sys2Proof.Machine

variable {e : Event} {i : Instr} {r : BusReply} {s t : State}

/-! ### The result of a narrow block -/

/-- With WIDE128 = 0 the checks let n through up to the command's ceiling (00_scope.md R8). -/
theorem opN_le_of_checkCirc (hc : checkCirc s = none) (hwide : s.cfg.wide128 = false) : opN s ≤ 2 ^ 61 := by
  by_contra habove
  have hn : sval s.la0 > ceilCirc64 := by unfold opN at habove; unfold ceilCirc64; omega
  have hpos : ¬ sval s.la0 < 0 := by omega
  simp [checkCirc, hpos, hn, hwide] at hc

theorem opN_le_of_checkDivsum (hc : checkDivsum s = none) (hwide : s.cfg.wide128 = false) : opN s ≤ 2 ^ 57 := by
  by_contra habove
  have hn : sval s.la0 > ceilDiv64 := by unfold opN at habove; unfold ceilDiv64; omega
  have hpos : ¬ sval s.la0 < 0 := by omega
  simp [checkDivsum, hpos, hn, hwide] at hc

/-- With WIDE128 = 0 a command whose checks passed has a result inside 63 bits. -/
theorem resultOf_lt (hc : checkOf i s = none) (hwide : s.cfg.wide128 = false) : resultOf i s < 2 ^ 63 := by
  obtain ⟨hcirc, hdiv, -, -⟩ := ceilingsBoundTheResults
  cases i with
  | sqrt64 =>
    have hroot : isqrt s.la0.toNat < 2 ^ 32 := isqrt_lt_of_lt_mul_self s.la0.isLt
    exact hroot.trans (by decide)
  | sqrt128 => simp [checkOf, checkSqrt128, hwide] at hc
  | invtab32 | invtab64 => exact opN_lt s
  | circfull => exact (hcirc _ (opN_le_of_checkCirc hc hwide)).1
  | circquad => exact (hcirc _ (opN_le_of_checkCirc hc hwide)).2
  | divsum => exact hdiv _ (opN_le_of_checkDivsum hc hwide)

theorem narrowResult_complete {res : Nat} (h : s.cfg.wide128 = false → res < 2 ^ 63) :
    NarrowResult (complete res s) := by
  intro hwide
  have hres := h hwide
  have hhi : res / 2 ^ 64 = 0 := by omega
  refine ⟨by rw [complete_resHi, hhi]; rfl, ?_⟩
  rw [complete_resLo, BitVec.toNat_ofNat]
  omega

theorem TurnEffect.narrowResult (h : TurnEffect r s t) (hengine : EngineCoherent s) (hs : NarrowResult s) :
    NarrowResult t := by
  cases h with
  | stay | fault => exact hs
  | finish i hin hp hop =>
    exact narrowResult_complete (resultOf_lt (hengine.checkOf_eq_none hp hop))
  | advance i _ hin hp hop ht =>
    obtain ⟨_, _, _, _, _, _, -, rfl⟩ := ht.frame
    exact hs

theorem EventEffect.narrowResult (h : EventEffect s e t) (hengine : EngineCoherent s) (hs : NarrowResult s) :
    NarrowResult t := by
  cases h with
  | turn _ _ ht => exact ht.narrowResult hengine hs
  | resetAssert => exact fun _ => ⟨rfl, Nat.two_pow_pos 63⟩
  | hostRead | operand | ack | drop | accept | agentWrite | agentRead | resetRelease => exact hs

/-! ### What a step changes of each register -/

/-- The engine's turn writes nothing of the host's and nothing outside the block but the platform's answer. -/
theorem TurnEffect.sameOutside (h : TurnEffect r s t) : SameOutside { s with bus := t.bus } t := by
  cases h with
  | stay | fault | finish => simp [SameOutside]
  | advance _ _ _ _ _ ht =>
    obtain ⟨_, _, _, _, _, _, -, rfl⟩ := ht.frame
    simp [SameOutside]

theorem EventEffect.cfg_eq (h : EventEffect s e t) : t.cfg = s.cfg := by
  cases h with
  | turn _ _ ht => exact ht.sameOutside.1
  | hostRead | operand | ack | drop | accept | agentWrite | agentRead | resetAssert | resetRelease => rfl

/-- RES changes by a successful end or by reset (10_state.md R33). -/
theorem EventEffect.result_cases (h : EventEffect s e t) :
    (t.resLo = s.resLo ∧ t.resHi = s.resHi) ∨
    (s.phase = .exec ∧ t.phase = .idle ∧ t.done = true ∧ t.err = false ∧ t.errcode = .none) ∨
    e = .resetAssert := by
  cases h with
  | turn _ _ ht =>
    cases ht with
    | stay | fault => exact .inl ⟨rfl, rfl⟩
    | finish _ _ hp => exact .inr (.inl ⟨hp, rfl, rfl, rfl, rfl⟩)
    | advance _ _ _ _ _ ht =>
      obtain ⟨_, _, _, _, _, _, -, rfl⟩ := ht.frame
      exact .inl ⟨rfl, rfl⟩
  | resetAssert => exact .inr (.inr rfl)
  | hostRead | operand | ack | drop | accept | agentWrite | agentRead | resetRelease => exact .inl ⟨rfl, rfl⟩

/-- CMD_OVF changes by a dropped command, by a write to STATUS or by reset (10_state.md R31). -/
theorem EventEffect.cmdOvf_cases (h : EventEffect s e t) :
    t.cmdOvf = s.cmdOvf ∨
    (∃ v, e = .hostWrite 8 0x10 v ∧ s.busy = true ∧ t = { s with cmdOvf := true }) ∨
    (∃ v, e = .hostWrite 8 0x18 v ∧ t.cmdOvf = (s.cmdOvf && !v.getLsbD 3)) ∨
    (e = .resetAssert ∧ t.cmdOvf = false) := by
  cases h with
  | turn _ _ ht =>
    obtain ⟨-, -, -, -, hovf, -⟩ := ht.sameOutside
    exact .inl hovf
  | drop v _ hb => exact .inr (.inl ⟨v, rfl, hb, rfl⟩)
  | ack v => exact .inr (.inr (.inl ⟨v, rfl, rfl⟩))
  | resetAssert => exact .inr (.inr (.inr ⟨rfl, rfl⟩))
  | hostRead | operand | accept | agentWrite | agentRead | resetRelease => exact .inl rfl

/-- ERRCODE changes in the accept step, at a command's end or by reset (10_state.md R30). -/
theorem EventEffect.errcode_cases (h : EventEffect s e t) :
    t.errcode = s.errcode ∨
    (∃ v, e = .hostWrite 8 0x10 v ∧ s.busy = false ∧ t.errcode = .none) ∨
    (s.phase ≠ .idle ∧ t.phase = .idle ∧ t.done = true) ∨
    e = .resetAssert := by
  cases h with
  | turn _ _ ht =>
    cases ht with
    | stay => exact .inl rfl
    | fault _ _ _ _ _ hp => exact .inr (.inr (.inl ⟨hp, rfl, rfl⟩))
    | finish _ _ hp => exact .inr (.inr (.inl ⟨by simp [hp], rfl, rfl⟩))
    | advance _ _ _ _ _ ht =>
      obtain ⟨_, _, _, _, _, _, -, rfl⟩ := ht.frame
      exact .inl rfl
  | accept v _ hb => exact .inr (.inl ⟨v, rfl, hb, rfl⟩)
  | resetAssert => exact .inr (.inr (.inr rfl))
  | hostRead | operand | ack | drop | agentWrite | agentRead | resetRelease => exact .inl rfl

/-- An event that ends a command, other than by reset, reports an error exactly with a code. -/
theorem EventEffect.err_iff_of_ended (h : EventEffect s e t) (hrun : s.phase ≠ .idle) (hend : t.phase = .idle)
    (hdone : t.done = true) : t.err = true ↔ t.errcode ≠ .none := by
  cases h with
  | turn _ _ ht =>
    cases ht with
    | stay => exact absurd hend hrun
    | fault _ _ _ _ _ _ hc => simp [hc]
    | finish => simp
    | advance _ _ _ _ _ ht => exact absurd hend (by simp [ht.exec_lop.1])
  | accept => cases hend
  | resetAssert => cases hdone
  | hostRead | operand | ack | drop | agentWrite | agentRead | resetRelease => exact absurd hend hrun

end Sys2Proof.Machine

namespace Sys2Proof.Machine

/-! ### The host's accesses to the register window -/

section HostAccess

variable {s : State}

theorem hostRead_eq {off : Nat} (hin : s.inReset = false) (hacc : accessRefusal 8 off = none) :
    hostRead 8 off s = .next { s with hostT := readSlot (slotOf off) s } := by
  simp [hostRead, hostAccess, hin, hacc]

theorem hostWrite_eq {off : Nat} (v : Word) (hin : s.inReset = false) (hacc : accessRefusal 8 off = none) :
    hostWrite 8 off v s = .next (refreshIrq (writeSlot (slotOf off) v s)) := by
  simp [hostWrite, hostAccess, hin, hacc]

/-- A write that leaves irq following DONE and IE leaves no more than its own effect (10_state.md R37). -/
theorem hostWrite_of_irq {off : Nat} {v : Word} (hin : s.inReset = false) (hacc : accessRefusal 8 off = none)
    (hirq : (writeSlot (slotOf off) v s).irq = irqLevel (writeSlot (slotOf off) v s)) :
    hostWrite 8 off v s = .next (writeSlot (slotOf off) v s) := by
  rw [hostWrite_eq v hin hacc, refreshIrq, ← hirq]

/-! ### STATUS -/

/-- The flags in the low half of STATUS (10_state.md R27). -/
def statusFlags (busy done err ovf : Bool) : Nat := bit ovf * 8 + bit err * 4 + bit done * 2 + bit busy

theorem statusFlags_lt (busy done err ovf : Bool) : statusFlags busy done err ovf < 2 ^ 4 := by
  revert busy done err ovf
  decide

theorem ErrCode.code_lt (c : ErrCode) : c.code < 2 ^ 4 := by cases c <;> decide

theorem statusFlags_testBit (busy done err ovf : Bool) (k : Nat) : (statusFlags busy done err ovf).testBit k =
    if k = 0 then busy else if k = 1 then done else if k = 2 then err else if k = 3 then ovf else false := by
  by_cases hk : k < 4
  · revert busy done err ovf k
    decide
  · rw [Nat.testBit_lt_two_pow ((statusFlags_lt ..).trans_le (Nat.pow_le_pow_right (by decide) (by omega)))]
    grind

theorem statusWord_toNat (s : State) :
    (statusWord s).toNat = 2 ^ 8 * s.errcode.code + statusFlags s.busy s.done s.err s.cmdOvf := by
  have hcode := s.errcode.code_lt
  have hflags := statusFlags_lt s.busy s.done s.err s.cmdOvf
  unfold statusWord
  rw [BitVec.toNat_ofNat]
  unfold statusFlags at hflags ⊢
  omega

/-- STATUS bit by bit (10_state.md R27). -/
theorem statusWord_getLsbD (s : State) (k : Nat) : (statusWord s).getLsbD k =
    if k = 0 then s.busy else if k = 1 then s.done else if k = 2 then s.err else if k = 3 then s.cmdOvf
    else if 8 ≤ k ∧ k ≤ 11 then s.errcode.code.testBit (k - 8) else false := by
  have hflags : statusFlags s.busy s.done s.err s.cmdOvf < 2 ^ 8 := (statusFlags_lt ..).trans (by decide)
  rw [BitVec.getLsbD, statusWord_toNat, Nat.testBit_two_pow_mul_add _ hflags, statusFlags_testBit]
  by_cases hk : 11 < k
  · have : s.errcode.code.testBit (k - 8) = false :=
      Nat.testBit_lt_two_pow (s.errcode.code_lt.trans_le (Nat.pow_le_pow_right (by decide) (by omega)))
    grind
  · grind

/-- ERRCODE is the field of bits 11:8. -/
theorem statusWord_errcode (s : State) : (statusWord s).toNat / 2 ^ 8 % 2 ^ 4 = s.errcode.code := by
  have hcode := s.errcode.code_lt
  have hflags := statusFlags_lt s.busy s.done s.err s.cmdOvf
  rw [statusWord_toNat]
  omega

/-- A host write to STATUS (10_state.md R27). -/
theorem hostWrite_status (v : Word) (hin : s.inReset = false) : hostWrite 8 0x18 v s = .next { s with
    done := if v.getLsbD 1 then false else s.done
    err := if v.getLsbD 2 then false else s.err
    cmdOvf := if v.getLsbD 3 then false else s.cmdOvf
    irq := (if v.getLsbD 1 then false else s.done) && s.ie } := by
  have hclear (b f : Bool) : (f && !b) = if b then false else f := by cases b <;> simp
  rw [hostWrite_eq v hin rfl]
  simp [slotOf, writeSlot, clearStatus, refreshIrq, irqLevel, hclear]

/-- A host write to CTRL (10_state.md R25). -/
theorem hostWrite_ctrl (v : Word) (hin : s.inReset = false) :
    hostWrite 8 0x08 v s = .next { s with ie := v.getLsbD 0, irq := s.done && v.getLsbD 0 } :=
  hostWrite_eq v hin rfl

/-- CTRL reads as IE (10_state.md R25). -/
theorem readSlot_ctrl_eq (v : Word) (hie : s.ie = v.getLsbD 0) : readSlot .ctrl s = v &&& 1#64 := by
  rw [BitVec.and_one_eq_setWidth_ofBool_getLsbD, readSlot, hie]
  cases v.getLsbD 0 <;> rfl

/-- The bits of STATUS that no field uses read 0 (10_state.md R23, R27). -/
theorem statusWord_reserved (s : State) : statusWord s &&& 0xFFFFFFFFFFFFF0F0#64 = 0 := by
  refine BitVec.eq_of_getLsbD_eq fun k hk => ?_
  have hmask : k < 64 → k ≤ 3 ∨ 8 ≤ k ∧ k ≤ 11 → (0xFFFFFFFFFFFFF0F0#64).getLsbD k = false := by
    revert k; decide
  rw [BitVec.getLsbD_and, statusWord_getLsbD]
  grind

end HostAccess

end Sys2Proof.Machine

open Sys2Proof Sys2Proof.Machine

/-- Settles O51: every effect of an event keeps the rules of `Coherent`, and the step itself evaluates irq again. -/
theorem invariantIsKept : Obligations.InvariantIsKept := by
  intro s t hs hstep
  obtain ⟨e, rest, u, heff, rfl, -⟩ := step_effect hstep
  obtain ⟨hstatus, hmem, hreset, hengine, hview⟩ := hs.coherent
  exact (heff.coherent ⟨hstatus, hmem, hreset, hengine, hview⟩).blockInv

/-- Settles O53: only a successful end writes RES, and with WIDE128 = 0 the checks of its command bound the result. -/
theorem narrowResultIsKept : Obligations.NarrowResultIsKept := by
  intro s t hs hnarrow hstep
  obtain ⟨e, rest, u, heff, rfl, -⟩ := step_effect hstep
  exact heff.narrowResult hs.coherent.engine hnarrow

/-- Settles O39: a command without a table takes one of four steps, each of which says what it writes. -/
theorem registerCommandFrame : Obligations.RegisterCommandFrame := by
  intro i s t hw hexec
  refine ⟨(exec_commandEffect hexec).sameOutside, ?_⟩
  cases exec_next hexec with
  | idle hp ht => subst ht; simp
  | invalid hp c w hc ht => subst ht; simp [hp]
  | enter hp hc _ ht => subst ht; simp
  | finish hp _ ht => subst ht; simp [hp]
  | start _ b _ hb | table _ b hb => simp [hw] at hb

/-- Settles O47: read off the effects of an event on RES. -/
theorem resultChangesOnlyOnSuccess : Obligations.ResultChangesOnlyOnSuccess := by
  intro s t hstep hchange
  obtain ⟨e, rest, u, heff, rfl, hsched⟩ := step_effect hstep
  obtain ⟨hlo, hhi⟩ | hend | rfl := heff.result_cases
  · exact absurd hchange (by simp [hlo, hhi])
  · exact .inl hend
  · exact .inr ⟨rest, by simpa using hsched⟩

/-- Settles O48: read off the effects of an event on CMD_OVF. -/
theorem overflowFlagRule : Obligations.OverflowFlagRule := by
  intro s t hstep
  obtain ⟨e, rest, u, heff, rfl, hsched⟩ := step_effect hstep
  obtain heq | ⟨v, rfl, hb, rfl⟩ | ⟨v, rfl, hack⟩ | ⟨rfl, hreset⟩ := heff.cmdOvf_cases
  · exact ⟨fun h0 h1 => by simp_all, fun h0 h1 => by simp_all⟩
  · exact ⟨fun _ _ => ⟨⟨v, rest, by simpa using hsched⟩, hb, rfl, rfl⟩, fun _ h1 => by cases h1⟩
  · exact ⟨fun h0 h1 => by simp_all, fun h0 h1 => .inl ⟨v, rest, by simpa using hsched, by simp_all⟩⟩
  · exact ⟨fun h0 h1 => by simp_all, fun h0 h1 => .inr ⟨rest, by simpa using hsched⟩⟩

/-- Settles O49: read off the effects of an event on ERRCODE. -/
theorem errorCodeRule : Obligations.ErrorCodeRule := by
  intro s t hstep
  obtain ⟨e, rest, u, heff, rfl, hsched⟩ := step_effect hstep
  refine ⟨fun hchange => ?_, heff.err_iff_of_ended⟩
  obtain heq | ⟨v, rfl, hb, hnone⟩ | hend | rfl := heff.errcode_cases
  · exact absurd heq hchange
  · exact .inl ⟨v, rest, by simpa using hsched, hb, hnone⟩
  · exact .inr (.inl hend)
  · exact .inr (.inr ⟨rest, by simpa using hsched⟩)

/-- Settles O50: the frame of the engine's turn, and of every event for the parameters. -/
theorem engineLeavesHostRegisters : Obligations.EngineLeavesHostRegisters := by
  refine ⟨fun s t r hturn => ?_, fun s t hstep => ?_⟩
  · obtain ⟨-, -, hie, hcmd, hovf, h0, h1, h2, hlop, hl0, hl1, hl2, -⟩ := (engineTurn_effect hturn).sameOutside
    exact ⟨h0, h1, h2, hie, hcmd, hovf, hlop, hl0, hl1, hl2⟩
  · obtain ⟨e, rest, u, heff, rfl, -⟩ := step_effect hstep
    exact heff.cfg_eq

/-- Settles O7: STATUS is read bit by bit, and a write to it clears flag by flag. -/
theorem statusFieldsAndWriteOneToClear : Obligations.StatusFieldsAndWriteOneToClear := by
  refine ⟨fun s hin => ⟨⟨statusWord s, hostRead_eq hin rfl, fun k _ => statusWord_getLsbD s k,
    fun c hc hcode => ?_⟩, fun v => hostWrite_status v hin⟩, rfl⟩
  rw [statusWord_errcode, hcode]
  clear hcode
  revert c
  decide

/-- Settles O8: a write to any of these slots is the identity, and each register's mask is read off its bits. -/
theorem reservedAndReadOnlyIgnoreWrites : Obligations.ReservedAndReadOnlyIgnoreWrites := by
  intro s hin hirq
  refine ⟨fun off hoff => ?_, fun off hoff v => ?_, ⟨_, hostRead_eq hin rfl, ?_⟩,
    ⟨_, hostRead_eq hin rfl, ?_⟩, ⟨_, hostRead_eq hin rfl, statusWord_reserved s⟩,
    fun v w hvw => ?_, fun v w hvw => ?_⟩
  · simp only [List.mem_cons, List.not_mem_nil, or_false] at hoff
    obtain rfl | rfl | rfl | rfl | rfl := hoff <;>
      exact ⟨⟨_, hostRead_eq hin rfl, rfl⟩, fun v => hostWrite_of_irq hin rfl hirq⟩
  · simp only [List.mem_cons, List.not_mem_nil, or_false] at hoff
    obtain rfl | rfl | rfl | rfl | rfl := hoff <;> exact hostWrite_of_irq hin rfl hirq
  · show capWord s &&& _ = 0
    unfold capWord
    cases s.cfg.wide128 <;> rfl
  · show BitVec.ofNat 64 (bit s.ie) &&& _ = 0
    cases s.ie <;> rfl
  · have hbit : v.getLsbD 0 = w.getLsbD 0 := by simpa using congrArg (·.getLsbD 0) hvw
    rw [hostWrite_ctrl v hin, hostWrite_ctrl w hin, hbit]
  · have h1 : v.getLsbD 1 = w.getLsbD 1 := by simpa using congrArg (·.getLsbD 1) hvw
    have h2 : v.getLsbD 2 = w.getLsbD 2 := by simpa using congrArg (·.getLsbD 2) hvw
    have h3 : v.getLsbD 3 = w.getLsbD 3 := by simpa using congrArg (·.getLsbD 3) hvw
    rw [hostWrite_status v hin, hostWrite_status w hin, h1, h2, h3]

/-- Settles O9: each is the write's own effect, which leaves irq where it stands for the operands. -/
theorem operandWritesTakeEffectAtOnce : Obligations.OperandWritesTakeEffectAtOnce :=
  fun _ v hin hirq => ⟨hostWrite_of_irq hin rfl hirq, hostWrite_of_irq hin rfl hirq,
    hostWrite_of_irq hin rfl hirq, hostWrite_ctrl v hin⟩

/-- Settles O10: the write to CTRL, and what CTRL reads as after it. -/
theorem controlRegisterHoldsOnlyIE : Obligations.ControlRegisterHoldsOnlyIE :=
  ⟨fun _ v hin => ⟨_, _, hostWrite_ctrl v hin, rfl, hostRead_eq hin rfl, readSlot_ctrl_eq v rfl⟩, rfl⟩

/-- Settles O46: the last thing a step does is to evaluate irq. -/
theorem irqFollowsDoneAndEnable : Obligations.IrqFollowsDoneAndEnable := by
  intro s t hstep
  obtain ⟨u, -, rfl⟩ := step_next hstep
  rfl

/-- Settles O52: the reset state is idle, with no outcome shown and both memories empty. -/
theorem invariantAtReset : Obligations.InvariantAtReset := by
  have hreset : BlockAtReset State.reset := by simp [BlockAtReset, State.reset]
  have hstatus : StatusCoherent State.reset := by simp [StatusCoherent, State.reset]
  have hcoherent : Coherent State.reset := .of_idle rfl hstatus ⟨rfl, rfl⟩ fun _ => hreset
  exact ⟨hcoherent.blockInv, hreset, fun _ => ⟨rfl, Nat.two_pow_pos 63⟩⟩

end

section
/-!
PROOFS of the family 20_memory.md. The memory port byte by byte; the one write a turn of the engine can make, which is
the pending write of the running table; and what can stop the machine with a fault, which the invariant leaves to the
other agents alone.
-/

namespace Sys2Proof.Machine

/-! ### The memory port, byte by byte -/

/-- MemRead as the sum of 20_memory.md R60. -/
theorem Memory.readLE_eq_sum (m : Memory) (a n : Nat) :
    m.readLE a n = ∑ k ∈ Finset.range n, (m.readByte (a + k)).toNat * 2 ^ (8 * k) := by
  induction n generalizing a with
  | zero => rfl
  | succ n ih =>
    have hshift : ∀ k, 256 * ((m.readByte (a + 1 + k)).toNat * 2 ^ (8 * k)) =
        (m.readByte (a + (k + 1))).toNat * 2 ^ (8 * (k + 1)) := fun k => by
      rw [show a + 1 + k = a + (k + 1) by omega]
      ring
    rw [Memory.readLE, ih, Finset.mul_sum, Finset.sum_congr rfl fun k _ => hshift k, Finset.sum_range_succ']
    simp [add_comm]

/-- Byte k of a value stored little-endian is `v[8k+7:8k]` (20_memory.md R60). -/
theorem getElem_leBytes {n k : Nat} (v : Nat) (hk : k < (leBytes n v).length) :
    (leBytes n v)[k] = BitVec.ofNat 8 (v / 2 ^ (8 * k)) := by
  induction n generalizing k v with
  | zero => exact absurd hk (Nat.not_lt_zero k)
  | succ n ih =>
    cases k with
    | zero => simp [leBytes]
    | succ k =>
      have hpow : 2 ^ (8 * (k + 1)) = 256 * 2 ^ (8 * k) := by rw [mul_add, pow_add, Nat.mul_comm]; rfl
      simp only [leBytes, List.getElem_cons_succ]
      rw [ih, Nat.div_div_eq_div_mul, hpow]

theorem Memory.readByte_writeLE_in {m : Memory} (hm : m.wf = true) {a n v k : Nat} (ha : a + n ≤ 2 ^ 64)
    (hk : k < n) :
    (m.writeLE a n v).readByte (a + k) = BitVec.ofNat 8 (v / 2 ^ (8 * k)) := by
  rw [Memory.writeLE, Memory.readByte_writeBytes_in hm (by simpa using ha) k (by simpa using hk), getElem_leBytes]

/-! ### The one write of a turn of the engine -/

section EngineWrite

variable {b : ElemWidth} {i : Instr} {r : BusReply} {s t : State}

/-- `t` has the memory of `s` but for the B bytes of the table write that is next in `s`, written well or spoilt by a
bus error (60_exceptions.md R236). -/
def WritesPending (b : ElemWidth) (s t : State) : Prop :=
  ∃ addr v bytes, pendingWrite b s = some (addr, v) ∧ bytes.length = b.bytes ∧ t.mem = s.mem.writeBytes addr bytes

theorem TableEffect.mem_cases (h : TableEffect b s t) : t.mem = s.mem ∨ WritesPending b s t := by
  cases h with
  | noncoprime _ _ _ ht | read _ _ _ _ _ ht | readError _ _ _ _ _ ht | finish _ _ ht => exact .inl (ht ▸ rfl)
  | seed hseq _ _ ht | write hseq _ _ ht =>
    exact .inr ⟨_, _, _, by rw [pendingWrite, hseq], length_leBytes .., by rw [ht]; rfl⟩
  | seedError hseq _ _ ht | writeError hseq _ _ ht =>
    exact .inr ⟨_, _, _, by rw [pendingWrite, hseq], length_drawnBytes s.draws b.bytes, by rw [ht]; rfl⟩

theorem ExecEffect.mem_cases (h : ExecEffect i s t) :
    t.mem = s.mem ∨ ∃ b, s.phase = .exec ∧ tableWidth i = some b ∧ WritesPending b s t := by
  cases h with
  | idle _ ht | invalid _ _ _ _ ht | enter _ _ _ ht | start _ _ _ _ _ ht | finish _ _ ht => exact .inl (ht ▸ rfl)
  | table hp b hw he => exact he.mem_cases.imp_right fun hwrite => ⟨b, hp, hw, hwrite⟩

/-- Only a running table command writes memory, and only its next write (20_memory.md R74). -/
theorem engineTurn_mem_cases (h : engineTurn r s = .next t) :
    t.mem = s.mem ∨ ∃ b, runningTable s = some b ∧ WritesPending b s t := by
  obtain ⟨-, rfl⟩ | ⟨-, -, ⟨i, hop, hexec⟩ | ⟨_, -, rfl⟩⟩ := engineTurn_next h
  · exact .inl rfl
  · obtain hmem | ⟨b, hp, hw, hwrite⟩ := (exec_next hexec).mem_cases
    · exact .inl hmem
    · exact .inr ⟨b, (runningTable_exec hp hop).trans hw, hwrite⟩
  · exact .inl rfl

/-- A running table command has passed its checks and stands inside its sequence. -/
theorem EngineCoherent.table_of_running (hs : EngineCoherent s) (hrun : runningTable s = some b) :
    TableOperandsValid b s ∧ TableCoherent b s := by
  obtain ⟨hp, i, hop, hw⟩ := runningTable_some hrun
  exact (engineCoherent_table_iff hp hop hw).1 hs

/-- The next write is that of an entry 1 .. n (42_invtab.md R160, R162). -/
theorem TableCoherent.pendingWrite_entry (h : TableCoherent b s) (hvalid : TableOperandsValid b s) {addr v : Nat}
    (hw : pendingWrite b s = some (addr, v)) : ∃ k, 1 ≤ k ∧ k ≤ opN s ∧ addr = entryAddr b s k := by
  unfold pendingWrite at hw
  cases hseq : s.seq <;> simp only [hseq, Option.some.injEq, Prod.mk.injEq, reduceCtorEq] at hw
  case w1 => exact ⟨1, le_rfl, hvalid.one_le_opN, hw.1.symm⟩
  case wa =>
    obtain ⟨h2, hn, -⟩ := h.at_wa hseq
    exact ⟨s.idx.toNat, by omega, hn, hw.1.symm⟩

/-- A write of one entry 1 .. n leaves index 0 and all bytes above index n. -/
theorem readByte_writeBytes_entry (m : Memory) {k a : Nat} {bytes : List Byte} (hk : 1 ≤ k) (hn : k ≤ opN s)
    (hlen : bytes.length = b.bytes)
    (ha : a < s.la2.toNat + b.bytes ∨ s.la2.toNat + (opN s + 1) * b.bytes ≤ a) :
    (m.writeBytes (entryAddr b s k) bytes).readByte a = m.readByte a := by
  have hlow : b.bytes ≤ k * b.bytes := Nat.le_mul_of_pos_left _ hk
  have hhigh : k * b.bytes + b.bytes ≤ (opN s + 1) * b.bytes := by
    simpa [Nat.succ_mul] using Nat.mul_le_mul_right b.bytes hn
  exact Memory.readByte_writeBytes_other m (by rw [entryAddr, hlen]; omega)

end EngineWrite

/-! ### What stops the machine with a fault -/

section Faults

variable {b : ElemWidth} {e : Event} {f : Fault} {i : Instr} {r : BusReply} {s : State}

theorem portWrite_fault {addr v : Nat} {next : State → State} (h : portWrite b addr v next s = .fault f) :
    inSpace b addr = false := by
  by_contra hsp
  cases hb : s.bus with
  | ok => rw [portWrite_ok (by simpa using hsp) hb] at h; cases h
  | error => rw [portWrite_error (by simpa using hsp) hb] at h; cases h

theorem portRead_fault {addr : Nat} {next : Nat → State → State} (h : portRead b addr next s = .fault f) :
    inSpace b addr = false := by
  by_contra hsp
  cases hb : s.bus with
  | ok => rw [portRead_ok (by simpa using hsp) hb] at h; cases h
  | error => rw [portRead_error (by simpa using hsp) hb] at h; cases h

/-- The index of the entry whose access leaves the address space when a step of the table sequence stops. -/
theorem tableStep_fault (h : tableStep b s = .fault f) : ∃ k, inSpace b (entryAddr b s k) = false ∧
    (s.seq = .w1 ∧ k = 1 ∨ s.seq = .ra ∧ s.idx.toNat ≤ opN s ∧ k = opM s % s.idx.toNat ∨
      s.seq = .wa ∧ k = s.idx.toNat) := by
  unfold tableStep at h
  split at h
  · exact ⟨1, portWrite_fault h, .inl ⟨‹_›, rfl⟩⟩
  · split at h
    · unfold stepRa at h
      split at h
      · cases h
      · exact ⟨_, portRead_fault h, .inr (.inl ⟨‹_›, ‹_›, rfl⟩)⟩
    · cases h
  · exact ⟨_, portWrite_fault h, .inr (.inr ⟨‹_›, rfl⟩)⟩

/-- Each step of the sequence accesses an entry up to n, and the checks keep those in the space (20_memory.md R67). -/
theorem TableCoherent.tableStep_ne_fault (h : TableCoherent b s) (hvalid : TableOperandsValid b s) :
    tableStep b s ≠ .fault f := by
  intro hfault
  obtain ⟨k, hsp, hk⟩ := tableStep_fault hfault
  have hn : k ≤ opN s := by
    obtain ⟨-, rfl⟩ | ⟨hseq, hi, rfl⟩ | ⟨hseq, rfl⟩ := hk
    · exact hvalid.one_le_opN
    · obtain ⟨h2, -⟩ := h.at_ra hseq
      exact (Nat.mod_lt _ (by omega)).le.trans hi
    · exact (h.at_wa hseq).2.1
  rw [entryAddr_inSpace hvalid hn] at hsp
  cases hsp

/-- Of a command's steps only those of the table sequence can stop with a fault. -/
theorem exec_fault (h : exec i s = .fault f) :
    s.phase = .exec ∧ ∃ b, tableWidth i = some b ∧ tableStep b s = .fault f := by
  cases hw : tableWidth i with
  | none =>
    rw [exec_oneStep hw] at h
    unfold oneStepCommand at h
    split at h <;> cases h
  | some b =>
    rw [exec_table hw] at h
    unfold tableCommand at h
    split at h
    · cases h
    · unfold validateInvtab at h
      repeat' split at h
      all_goals cases h
    · exact ⟨‹_›, b, rfl, h⟩

theorem engineTurn_fault (h : engineTurn r s = .fault f) :
    ∃ b, runningTable s = some b ∧ tableStep b { s with bus := r } = .fault f := by
  unfold engineTurn at h
  split at h
  · cases h
  · split at h
    · cases h
    all_goals
      split at h
      · obtain ⟨hp, b, hw, hstep⟩ := exec_fault h
        exact ⟨b, (runningTable_exec hp ‹_›).trans hw, hstep⟩
      · cases h

theorem EngineCoherent.engineTurn_ne_fault (hs : EngineCoherent s) : engineTurn r s ≠ .fault f := by
  intro h
  obtain ⟨b, hrun, hstep⟩ := engineTurn_fault h
  obtain ⟨hvalid, htable⟩ := hs.table_of_running hrun
  have hbus : TableCoherent b { s with bus := r } := htable
  exact hbus.tableStep_ne_fault hvalid hstep

theorem hostAccess_ne_fault {width off : Nat} {effect : Slot → State → State} :
    hostAccess width off effect s ≠ .fault f := by
  unfold hostAccess
  repeat' split
  all_goals nofun

/-- Another agent's access faults only past the top of the address space (log entry 15). -/
theorem agentAccess_fault {addr len : Nat} {effect : State → State} (h : agentAccess addr len effect s = .fault f) :
    f = .agentAddressBeyondSpace ∧ 2 ^ 64 < addr + len := by
  unfold agentAccess at h
  split at h
  · injection h with h
    exact ⟨h.symm, ‹_›⟩
  · repeat' split at h
    all_goals cases h

theorem hostRead_ne_fault {width off : Nat} : hostRead width off s ≠ .fault f := hostAccess_ne_fault

theorem hostWrite_ne_fault {width off : Nat} {v : Word} : hostWrite width off v s ≠ .fault f := hostAccess_ne_fault

theorem agentWrite_fault {addr : Word} {bytes : List Byte} (h : agentWrite addr bytes s = .fault f) :
    f = .agentAddressBeyondSpace ∧ 2 ^ 64 < addr.toNat + bytes.length :=
  agentAccess_fault h

theorem agentRead_fault {addr : Word} {len : Nat} (h : agentRead addr len s = .fault f) :
    f = .agentAddressBeyondSpace ∧ 2 ^ 64 < addr.toNat + len :=
  agentAccess_fault h

/-- The event `e` is another agent's access past the top of the address space. -/
def AgentBeyondSpace (e : Event) : Prop :=
  (∃ addr bytes, e = .agentWrite addr bytes ∧ 2 ^ 64 < addr.toNat + bytes.length) ∨
  ∃ addr len, e = .agentRead addr len ∧ 2 ^ 64 < addr.toNat + len

theorem EngineCoherent.perform_fault (hs : EngineCoherent s) (h : perform e s = .fault f) :
    f = .agentAddressBeyondSpace ∧ AgentBeyondSpace e := by
  cases e with
  | hostRead => exact absurd h hostRead_ne_fault
  | hostWrite => exact absurd h hostWrite_ne_fault
  | engine => exact absurd h hs.engineTurn_ne_fault
  | agentWrite addr bytes => exact (agentWrite_fault h).imp_right fun hover => .inl ⟨addr, bytes, rfl, hover⟩
  | agentRead addr len => exact (agentRead_fault h).imp_right fun hover => .inr ⟨addr, len, rfl, hover⟩
  | resetAssert | resetRelease => cases h

theorem step_fault (h : step s = .fault f) : takeEvent s = .fault f := by
  unfold step settle at h
  split at h
  · cases h
  · injection h with h
    exact h ▸ ‹_›
  · cases h

end Faults

end Sys2Proof.Machine

open Sys2Proof Sys2Proof.Machine

/-- Settles O43: the one write a turn makes is that of an entry 1 .. n of the running table. -/
theorem engineWritesOnlyTheTable : Obligations.EngineWritesOnlyTheTable := by
  intro s t r hs hturn a ha
  obtain hmem | ⟨b, hrun, addr, v, bytes, hpending, hlen, hmem⟩ := engineTurn_mem_cases hturn
  · rw [hmem]
  · obtain ⟨-, i, hop, hw⟩ := runningTable_some hrun
    obtain ⟨hvalid, htable⟩ := hs.coherent.engine.table_of_running hrun
    obtain ⟨k, hk, hn, rfl⟩ := htable.pendingWrite_entry hvalid hpending
    rw [hmem, readByte_writeBytes_entry s.mem hk hn hlen (ha i b hop hw)]

/-- Settles O54: the invariant keeps the engine's accesses in the space, and of the other events only an agent's access
can fault. -/
theorem onlyAgentsLeaveTheAddressSpace : Obligations.OnlyAgentsLeaveTheAddressSpace := by
  intro s f hs hstep
  have hengine := hs.coherent.engine
  have htake := step_fault hstep
  rw [takeEvent_eq] at htake
  cases hsched : s.schedule with
  | nil =>
    rw [hsched] at htake
    exact absurd htake hengine.engineTurn_ne_fault
  | cons e rest =>
    rw [hsched] at htake
    have hrest : EngineCoherent { s with schedule := rest } := hengine
    obtain ⟨hf, ⟨addr, bytes, rfl, hover⟩ | ⟨addr, len, rfl, hover⟩⟩ := hrest.perform_fault htake
    · exact ⟨hf, .inl ⟨addr, bytes, rest, rfl, hover⟩⟩
    · exact ⟨hf, .inr ⟨addr, len, rest, rfl, hover⟩⟩

/-- Settles O58: the read as a sum, and the bytes of a write inside and outside its n bytes. -/
theorem memoryPortIsLittleEndian : Obligations.MemoryPortIsLittleEndian := by
  intro m addr n v hm hsp
  refine ⟨m.readLE_eq_sum addr n, fun k hk => ?_, fun a ha => m.readByte_writeLE_other ha⟩
  rw [Memory.readByte_writeLE_in hm hsp hk, BitVec.toNat_ofNat]
end

section
/-!
PROOFS of the family 30_encoding.md. The opcode map is inverted by `encode` on its OP values, and with RSVD = 0 the OP
field is the whole word, which gives both directions on all words; a word is rejected by name, field by field (R94). An
illegal word goes through the accept step like any other, and the engine's next turn ends it.
-/

namespace Sys2Proof

/-! ### The opcode map -/

section Opcode

variable {op : Nat} {i : Instr} {w : Word}

theorem decodeOp_eq_ok_iff : decodeOp op = .ok i ↔ op = (encode i).toNat := by
  constructor
  · intro h
    unfold decodeOp at h
    split at h <;> cases h <;> rfl
  · rintro rfl
    cases i <;> rfl

theorem decodeOp_of_high (h : 8 ≤ op) : decodeOp op = .error .opHigh := by
  obtain ⟨k, rfl⟩ := Nat.exists_eq_add_of_le' h
  rfl

/-- The OP values of no command (R94). -/
theorem exists_decodeOp_eq_error_iff : (∃ e, decodeOp op = .error e) ↔ op = 0 ∨ 8 ≤ op := by
  constructor
  · rintro ⟨e, h⟩
    by_contra hdefined
    obtain ⟨hlo, hhi⟩ : 1 ≤ op ∧ op ≤ 7 := by omega
    interval_cases op <;> cases h
  · rintro (rfl | hhigh)
    · exact ⟨_, rfl⟩
    · exact ⟨_, decodeOp_of_high hhigh⟩

/-! ### The command word -/

theorem decodeWord_of_rsvd_zero (hr : rsvdField w = 0) : decodeWord w = decodeOp (opField w) := if_pos hr

theorem decodeWord_of_rsvd_ne_zero (hr : rsvdField w ≠ 0) : decodeWord w = .error .reservedBits := if_neg hr

theorem opField_eq_toNat (hr : rsvdField w = 0) : opField w = w.toNat := by
  unfold rsvdField at hr
  unfold opField
  omega

theorem rsvdField_encode (i : Instr) : rsvdField (encode i) = 0 := by cases i <;> rfl

/-- Decode and encode agree in both directions on all words (R92). -/
theorem decodeWord_eq_ok_iff : decodeWord w = .ok i ↔ w = encode i := by
  by_cases hr : rsvdField w = 0
  · rw [decodeWord_of_rsvd_zero hr, decodeOp_eq_ok_iff, opField_eq_toNat hr, BitVec.toNat_inj]
  · have hne : w ≠ encode i := by
      rintro rfl
      exact hr (rsvdField_encode i)
    simp [decodeWord_of_rsvd_ne_zero hr, hne]

theorem decodeWord_encode (i : Instr) : decodeWord (encode i) = .ok i := decodeWord_eq_ok_iff.2 rfl

/-- The illegal words (R94). -/
theorem exists_decodeWord_eq_error_iff :
    (∃ e, decodeWord w = .error e) ↔ rsvdField w ≠ 0 ∨ opField w = 0 ∨ 8 ≤ opField w := by
  by_cases hr : rsvdField w = 0
  · simp [decodeWord_of_rsvd_zero hr, exists_decodeOp_eq_error_iff, hr]
  · simp [decodeWord_of_rsvd_ne_zero hr, hr]

/-- Every word is illegal or the word of a command. -/
theorem illegal_or_encode (w : Word) :
    (rsvdField w ≠ 0 ∨ opField w = 0 ∨ 8 ≤ opField w) ∨ ∃ i, w = encode i := by
  cases hop : decodeWord w with
  | error e => exact .inl (exists_decodeWord_eq_error_iff.1 ⟨e, hop⟩)
  | ok i => exact .inr ⟨i, decodeWord_eq_ok_iff.1 hop⟩

end Opcode

end Sys2Proof

namespace Sys2Proof.Machine

/-! ### An illegal word, from the accept step to the engine's turn -/

/-- A write to CMD while BUSY = 0 is the accept step, with irq evaluated after it (40_command_interface.md R114). -/
theorem hostWrite_cmd_of_not_busy {s : State} (v : Word) (hin : s.inReset = false) (hbusy : s.busy = false) :
    hostWrite 8 0x10 v s = .next (refreshIrq (accept v s)) := by
  have hcmd : writeSlot (slotOf 0x10) v s = accept v s := if_neg (by simp [hbusy])
  rw [hostWrite_eq v hin rfl, hcmd]

/-- A running illegal word ends with ILLEGAL_CMD and the word (40_command_interface.md R119). -/
theorem engineTurn_of_illegal {s : State} {e : DecodeReject} (r : BusReply) (hin : s.inReset = false)
    (hp : s.phase ≠ .idle) (hop : decodeWord s.lop = .error e) :
    engineTurn r s = .next (raiseFault .illegalCmd s.lop { s with bus := r }) := by
  cases hphase : s.phase with
  | idle => exact absurd hphase hp
  | validate | exec => simp [engineTurn, hin, hphase, hop]

end Sys2Proof.Machine

open Sys2Proof Sys2Proof.Machine

/-- Settles O2: the opcode map inverts `encode`, and RSVD = 0 makes the OP field the whole word. -/
theorem decodeInvertsEncodeOnAllWords : Obligations.DecodeInvertsEncodeOnAllWords :=
  ⟨rfl, fun _ => ⟨fun _ => decodeWord_eq_ok_iff, exists_decodeWord_eq_error_iff⟩⟩

/-- Settles O3: the accept step takes any word, and the engine's turn rejects what does not decode. -/
theorem illegalWordEndsWithIllegalCmd : Obligations.IllegalWordEndsWithIllegalCmd := by
  refine ⟨fun s w r hin hbusy hillegal => ?_, illegal_or_encode⟩
  obtain ⟨e, hop⟩ := exists_decodeWord_eq_error_iff.2 hillegal
  exact ⟨refreshIrq (accept w s), hostWrite_cmd_of_not_busy w hin hbusy, rfl, rfl, rfl, rfl, rfl,
    engineTurn_of_illegal r hin (by simp) hop⟩

/-- Settles O1: each command's word by the round trip, each illegal word by the field that rejects it. -/
theorem opcodeMapWords : Obligations.OpcodeMapWords :=
  ⟨decodeWord_encode .sqrt64, decodeWord_encode .sqrt128, decodeWord_encode .invtab32, decodeWord_encode .invtab64,
    decodeWord_encode .circfull, decodeWord_encode .circquad, decodeWord_encode .divsum,
    decodeWord_of_rsvd_zero rfl,
    (decodeWord_of_rsvd_zero rfl).trans (decodeOp_of_high (by decide)),
    (decodeWord_of_rsvd_zero rfl).trans (decodeOp_of_high (by decide)),
    decodeWord_of_rsvd_ne_zero (by decide), decodeWord_of_rsvd_ne_zero (by decide)⟩
end

section
/-!
PROOFS of the family 40_command_interface.md. Each event is one step; the three checks of R113 decide whether a host
access is refused or goes on; what a running command owns is untouched by the host and by other agents (R123); and the
count of turns left falls in every turn of the engine (R122), which only a refused placement can keep from going on.
-/

namespace Sys2Proof.Machine

variable {b : ElemWidth} {e : Event} {i : Instr} {r : BusReply} {s t : State}

/-! ### One event a step -/

theorem step_of_schedule_nil (h : s.schedule = []) : step s = settle (engineTurn .ok s) := by
  rw [step, takeEvent_eq, h]

theorem step_of_schedule_cons {rest : List Event} (h : s.schedule = e :: rest) :
    step s = settle (perform e { s with schedule := rest }) := by
  rw [step, takeEvent_eq, h]

/-- A running legal word takes one step of its command (40_command_interface.md R118). -/
theorem engineTurn_of_legal (r : BusReply) (hin : s.inReset = false) (hp : s.phase ≠ .idle)
    (hop : decodeWord s.lop = .ok i) : engineTurn r s = exec i { s with bus := r } := by
  cases hphase : s.phase with
  | idle => exact absurd hphase hp
  | validate | exec => simp [engineTurn, hin, hphase, hop]

/-- The engine takes no step at IDLE (40_command_interface.md R118). -/
theorem engineTurn_of_idle (r : BusReply) (hp : s.phase = .idle) : engineTurn r s = .next s := by
  cases hin : s.inReset <;> simp [engineTurn, hin, hp]

/-! ### The host's accesses -/

section HostAccess

variable {width off : Nat} {effect : Slot → State → State}

theorem hostAccess_of_refusal {f : Refusal} (hin : s.inReset = false) (h : accessRefusal width off = some f) :
    hostAccess width off effect s = .refused f := by
  simp [hostAccess, hin, h]

theorem hostAccess_of_defined (hin : s.inReset = false) (h : accessRefusal width off = none) :
    hostAccess width off effect s = .next (effect (slotOf off) s) := by
  simp [hostAccess, hin, h]

/-- The accesses to which R113 gives no meaning. -/
theorem exists_accessRefusal_eq_some_iff :
    (∃ f, accessRefusal width off = some f) ↔ width ≠ 8 ∨ off % 8 ≠ 0 ∨ 0x7F < off := by
  rw [← Option.ne_none_iff_exists', Ne, accessRefusal_eq_none]
  omega

end HostAccess

/-- RD of a slot whose value is known (40_command_interface.md R110). -/
theorem hostRead_of_readSlot {off : Nat} {w : Word} (hin : s.inReset = false) (hacc : accessRefusal 8 off = none)
    (hslot : readSlot (slotOf off) s = w) : hostRead 8 off s = .next { s with hostT := w } :=
  hslot ▸ hostRead_eq hin hacc

/-- CAP by the value of WIDE128 (10_state.md R24). -/
theorem capWord_eq (s : State) : capWord s = if s.cfg.wide128 then 0x103#64 else 0x102#64 := by
  unfold capWord
  cases s.cfg.wide128 <;> rfl

/-- CTRL by the value of IE (10_state.md R25). -/
theorem readSlot_ctrl (s : State) : readSlot .ctrl s = if s.ie then 1#64 else 0#64 := by
  unfold readSlot
  cases s.ie <;> rfl

/-- A flag that stands at the place of weight k in STATUS. -/
theorem bit_mul (f : Bool) (k : Nat) : bit f * k = if f then k else 0 := by
  cases f <;> simp [bit]

/-- STATUS as the sum of what each field that is set gives (10_state.md R27). -/
theorem statusWord_eq (s : State) : statusWord s = BitVec.ofNat 64 (s.errcode.code * 2 ^ 8 +
    (if s.cmdOvf then 8 else 0) + (if s.err then 4 else 0) + (if s.done then 2 else 0) +
    (if s.busy then 1 else 0)) := by
  rw [statusWord, bit_mul, bit_mul, bit_mul, bit]

/-- A write to CMD while BUSY = 1 is dropped (40_command_interface.md R115). -/
theorem writeCmd_of_busy (v : Word) (hb : s.busy = true) : writeCmd v s = { s with cmdOvf := true } := if_pos hb

/-! ### What no register access and no other agent touches -/

/-- An access of the host to the register window, or of another agent to memory. -/
def HostOrAgent (e : Event) : Prop :=
  (∃ w o, e = .hostRead w o) ∨ (∃ w o v, e = .hostWrite w o v) ∨ (∃ a bs, e = .agentWrite a bs) ∨
    ∃ a n, e = .agentRead a n

/-- The command that runs in `s` stands in `t` as it stood: BUSY, the engine's state, the latch and the outcome
registers (40_command_interface.md R123). -/
def SameCommand (s t : State) : Prop :=
  t.busy = s.busy ∧ t.phase = s.phase ∧ t.cmd = s.cmd ∧ t.lop = s.lop ∧ t.la0 = s.la0 ∧ t.la1 = s.la1 ∧
  t.la2 = s.la2 ∧ t.idx = s.idx ∧ t.tmpv = s.tmpv ∧ t.seq = s.seq ∧ t.progress = s.progress ∧
  t.resLo = s.resLo ∧ t.resHi = s.resHi ∧ t.errcode = s.errcode ∧ t.errinfo = s.errinfo

theorem EventEffect.sameCommand (h : EventEffect s e t) (he : HostOrAgent e) (hb : s.busy = true) :
    SameCommand s t := by
  cases h with
  | hostRead | operand | ack | drop | agentWrite | agentRead => simp [SameCommand, clearStatus]
  | accept v _ hidle => simp [hb] at hidle
  | turn | resetAssert | resetRelease => simp [HostOrAgent] at he

theorem perform_sameCommand (he : HostOrAgent e) (hb : s.busy = true) (h : perform e s = .next t) :
    SameCommand s t := by
  obtain ⟨u, heff, hirq⟩ := perform_effect h
  have hu : SameCommand s (refreshIrq u) := heff.sameCommand he hb
  rwa [← hirq] at hu

/-! ### The count of turns left -/

theorem turnsLeft_idle (hp : s.phase = .idle) : turnsLeft s = 0 := by simp [turnsLeft, hp]

theorem turnsLeft_validate_illegal {d : DecodeReject} (hp : s.phase = .validate)
    (hop : decodeWord s.lop = .error d) : turnsLeft s = 1 := by
  simp [turnsLeft, hp, hop]

theorem turnsLeft_validate_register (hp : s.phase = .validate) (hop : decodeWord s.lop = .ok i)
    (hw : tableWidth i = none) : turnsLeft s = 2 := by
  simp [turnsLeft, hp, hop, hw]

theorem turnsLeft_validate_table (hp : s.phase = .validate) (hop : decodeWord s.lop = .ok i)
    (hw : tableWidth i = some b) : turnsLeft s = 2 * opN s + 1 := by
  simp [turnsLeft, hp, hop, hw]

theorem turnsLeft_exec_register (hp : s.phase = .exec) (hrun : runningTable s = none) : turnsLeft s = 1 := by
  simp [turnsLeft, hp, hrun]

section RunningTable

variable (hrun : runningTable s = some b)

include hrun

theorem turnsLeft_w1 (hseq : s.seq = .w1) : turnsLeft s = 2 * opN s := by
  simp [turnsLeft, (runningTable_some hrun).1, hrun, hseq]

theorem turnsLeft_ra (hseq : s.seq = .ra) : turnsLeft s = 2 * (opN s + 1 - s.idx.toNat) + 1 := by
  simp [turnsLeft, (runningTable_some hrun).1, hrun, hseq]

theorem turnsLeft_wa (hseq : s.seq = .wa) : turnsLeft s = 2 * (opN s + 1 - s.idx.toNat) := by
  simp [turnsLeft, (runningTable_some hrun).1, hrun, hseq]

end RunningTable

/-- The count reads the engine's state and the latch alone. -/
theorem SameCommand.turnsLeft_eq (h : SameCommand s t) : turnsLeft t = turnsLeft s := by
  obtain ⟨-, hphase, -, hlop, hl0, -, -, hidx, -, hseq, -⟩ := h
  simp only [turnsLeft, runningTable, opN, hphase, hlop, hl0, hidx, hseq]

/-- The three words that can stand at VALIDATE, with their counts. -/
theorem turnsLeft_validate_cases (hp : s.phase = .validate) :
    turnsLeft s = 1 ∨ turnsLeft s = 2 ∨
    ∃ i b, decodeWord s.lop = .ok i ∧ tableWidth i = some b ∧ turnsLeft s = 2 * opN s + 1 := by
  cases hop : decodeWord s.lop with
  | error => exact .inl (turnsLeft_validate_illegal hp hop)
  | ok i =>
    cases hw : tableWidth i with
    | none => exact .inr (.inl (turnsLeft_validate_register hp hop hw))
    | some b => exact .inr (.inr ⟨i, b, rfl, hw, turnsLeft_validate_table hp hop hw⟩)

/-- A table command in EXEC needs a turn more: step W1 has n >= 1 to start with, and step Wa stands at idx <= n. -/
theorem turnsLeft_pos_of_runningTable (hs : EngineCoherent s) (hrun : runningTable s = some b) :
    0 < turnsLeft s := by
  obtain ⟨hvalid, htable⟩ := hs.table_of_running hrun
  cases hseq : s.seq with
  | w1 =>
    have hn := hvalid.one_le_opN
    rw [turnsLeft_w1 hrun hseq]
    omega
  | ra =>
    rw [turnsLeft_ra hrun hseq]
    omega
  | wa =>
    obtain ⟨-, hi, -⟩ := htable.at_wa hseq
    rw [turnsLeft_wa hrun hseq]
    omega

theorem turnsLeft_pos (hs : EngineCoherent s) (hp : s.phase ≠ .idle) : 0 < turnsLeft s := by
  cases hphase : s.phase with
  | idle => exact absurd hphase hp
  | validate =>
    obtain h | h | ⟨i, b, -, -, h⟩ := turnsLeft_validate_cases hphase <;> omega
  | exec =>
    cases hrun : runningTable s with
    | none => simp [turnsLeft_exec_register hphase hrun]
    | some b => exact turnsLeft_pos_of_runningTable hs hrun

/-! ### Every turn of the engine lowers the count -/

/-- The next step of a command has a smaller count than the one it follows (42_invtab.md R169). -/
theorem Advance.turnsLeft_lt (h : Advance i s t) (hop : decodeWord s.lop = .ok i) (hs : EngineCoherent s) :
    turnsLeft t < turnsLeft s := by
  obtain ⟨hpt, hlop⟩ := h.exec_lop
  have hrunt : runningTable t = tableWidth i := runningTable_exec hpt (hlop ▸ hop)
  cases h with
  | enter hp _ hw =>
    rw [turnsLeft_exec_register hpt (hrunt.trans hw), turnsLeft_validate_register hp hop hw]
    decide
  | start b hp _ hw =>
    rw [turnsLeft_w1 (hrunt.trans hw) rfl, turnsLeft_validate_table hp hop hw]
    exact Nat.lt_succ_self (2 * opN s)
  | seed b hp hw hseq =>
    have hrun := (runningTable_exec hp hop).trans hw
    have hn := (hs.table_of_running hrun).1.one_le_opN
    rw [turnsLeft_ra (hrunt.trans hw) rfl, turnsLeft_w1 hrun hseq]
    show 2 * (opN s + 1 - 2) + 1 < 2 * opN s
    omega
  | read b v hp hw hseq =>
    rw [turnsLeft_wa (hrunt.trans hw) rfl, turnsLeft_ra ((runningTable_exec hp hop).trans hw) hseq]
    exact Nat.lt_succ_self (2 * (opN s + 1 - s.idx.toNat))
  | write b hp hw hseq =>
    have hrun := (runningTable_exec hp hop).trans hw
    obtain ⟨-, hi, -⟩ := (hs.table_of_running hrun).2.at_wa hseq
    have hn := opN_lt s
    have hsucc : (s.idx + 1).toNat = s.idx.toNat + 1 := by bv_omega
    rw [turnsLeft_ra (hrunt.trans hw) rfl, turnsLeft_wa hrun hseq]
    show 2 * (opN s + 1 - (s.idx + 1).toNat) + 1 < 2 * (opN s + 1 - s.idx.toNat)
    omega

theorem TurnEffect.turnsLeft_lt (h : TurnEffect r s t) (hs : EngineCoherent s) (hin : s.inReset = false)
    (hp : s.phase ≠ .idle) : turnsLeft t < turnsLeft s := by
  cases h with
  | stay hidle => simp [hin, hp] at hidle
  | fault | finish => exact turnsLeft_pos hs hp
  | advance i _ _ _ hop ht => exact ht.turnsLeft_lt hop hs

/-- The turn that reaches IDLE ends the command (40_command_interface.md R121, 60_exceptions.md R234). -/
theorem TurnEffect.done_of_ended (h : TurnEffect r s t) (hin : s.inReset = false) (hp : s.phase ≠ .idle)
    (hend : t.phase = .idle) : t.done = true ∧ t.busy = false := by
  cases h with
  | stay hidle => simp [hin, hp] at hidle
  | fault | finish => exact ⟨rfl, rfl⟩
  | advance i _ _ _ _ ht => simp [ht.exec_lop.1] at hend

/-! ### Only a misplaced table is refused -/

section Refusals

variable {f : Refusal}

theorem portWrite_ne_refused {addr v : Nat} {next : State → State} : portWrite b addr v next s ≠ .refused f := by
  unfold portWrite
  repeat' split
  all_goals nofun

theorem portRead_ne_refused {addr : Nat} {next : Nat → State → State} : portRead b addr next s ≠ .refused f := by
  unfold portRead
  repeat' split
  all_goals nofun

theorem tableStep_ne_refused : tableStep b s ≠ .refused f := by
  unfold tableStep
  split
  · exact portWrite_ne_refused
  · split
    · unfold stepRa
      split
      · nofun
      · exact portRead_ne_refused
    · nofun
  · exact portWrite_ne_refused

/-- The refusal of R281 comes after the checks have passed (log entry 12). -/
theorem validateInvtab_refused (h : validateInvtab b s = .refused f) :
    TableOperandsValid b s ∧ ¬ TablePlaced b s := by
  unfold validateInvtab at h
  split at h
  · cases h
  · have hvalid : TableOperandsValid b s := checkInvtab_eq_none.1 ‹_›
    refine ⟨hvalid, fun hplaced => ?_⟩
    rw [(tableRefusal_eq_none hvalid).2 hplaced] at h
    cases h

theorem exec_refused (h : exec i s = .refused f) :
    s.phase = .validate ∧ ∃ b, tableWidth i = some b ∧ TableOperandsValid b s ∧ ¬ TablePlaced b s := by
  cases hw : tableWidth i with
  | none =>
    rw [exec_oneStep hw] at h
    unfold oneStepCommand at h
    split at h <;> cases h
  | some b =>
    rw [exec_table hw] at h
    unfold tableCommand at h
    split at h
    · cases h
    · exact ⟨‹_›, b, rfl, validateInvtab_refused h⟩
    · exact absurd h tableStep_ne_refused

theorem engineTurn_refused (h : engineTurn r s = .refused f) :
    s.phase = .validate ∧ ∃ i b, decodeWord s.lop = .ok i ∧ tableWidth i = some b ∧ TableOperandsValid b s ∧
      ¬ TablePlaced b s := by
  unfold engineTurn at h
  split at h
  · cases h
  · split at h
    · cases h
    all_goals
      split at h
      · obtain ⟨hp, b, hw, hvalid, hplaced⟩ := exec_refused h
        exact ⟨hp, _, b, ‹_›, hw, hvalid, hplaced⟩
      · cases h

end Refusals

/-- In a state the invariant allows, the engine's turn goes on unless it would start a misplaced table. -/
theorem EngineCoherent.exists_engineTurn_next (hs : EngineCoherent s) (r : BusReply)
    (hplaced : ∀ i b, s.phase = .validate → decodeWord s.lop = .ok i → tableWidth i = some b →
      TableOperandsValid b s → TablePlaced b s) : ∃ t, engineTurn r s = .next t := by
  cases h : engineTurn r s with
  | next t => exact ⟨t, rfl⟩
  | fault => exact absurd h hs.engineTurn_ne_fault
  | refused =>
    obtain ⟨hp, i, b, hop, hw, hvalid, hover⟩ := engineTurn_refused h
    exact absurd (hplaced i b hp hop hw hvalid) hover

end Sys2Proof.Machine

open Sys2Proof Sys2Proof.Machine

/-- Settles O15: the invariant keeps every turn inside the sequence, where the count falls; the count reads only what no
access touches. -/
theorem everyCommandEnds : Obligations.EveryCommandEnds := by
  intro s hs hin
  have hengine := hs.coherent.engine
  refine ⟨⟨fun hzero => ?_, turnsLeft_idle⟩, fun hp => ?_, fun hp hplaced r => ?_, fun e t hb he hperform => ?_⟩
  · by_contra hp
    exact (turnsLeft_pos hengine hp).ne' hzero
  · obtain hone | htwo | ⟨i, b, hop, hw, htable⟩ := turnsLeft_validate_cases hp
    · exact .inl (by omega)
    · exact .inl htwo.le
    · exact .inr ⟨i, b, hop, hw, htable.le⟩
  · obtain ⟨t, hturn⟩ := hengine.exists_engineTurn_next r hplaced
    have heff := engineTurn_effect hturn
    exact ⟨t, hturn, heff.turnsLeft_lt hengine hin hp, heff.done_of_ended hin hp⟩
  · exact (perform_sameCommand he hb hperform).turnsLeft_eq

/-- Settles O14: the frame of the host's and the agents' events, and the block at its reset values. -/
theorem onlyResetStopsARunningCommand : Obligations.OnlyResetStopsARunningCommand := by
  refine ⟨fun s t e hb he hperform => ?_, fun s => ⟨assertReset s, rfl, rfl, rfl, rfl⟩⟩
  obtain ⟨hbusy, hcommand⟩ := perform_sameCommand he hb hperform
  exact ⟨hbusy.trans hb, hcommand⟩

/-- Settles O4: the turn is taken off the schedule, or stands for the empty one, and the word it runs is legal. -/
theorem stepRunsDecodedCommand : Obligations.StepRunsDecodedCommand := by
  intro s i hin hp hop
  refine ⟨fun r rest hsched => ?_, fun hsched => ?_⟩
  · have hturn : engineTurn r { s with schedule := rest } = exec i { s with schedule := rest, bus := r } :=
      engineTurn_of_legal r hin hp hop
    rw [step_of_schedule_cons hsched, perform, hturn]
  · rw [step_of_schedule_nil hsched, engineTurn_of_legal .ok hin hp hop]

/-- Settles O5: a step performs the first event of the schedule, and the idle engine's turn is no step. -/
theorem eventsAreSingleSteps : Obligations.EventsAreSingleSteps := by
  intro s rest
  refine ⟨fun _ _ => step_of_schedule_cons, fun _ _ _ => step_of_schedule_cons, fun _ _ => step_of_schedule_cons,
    fun _ _ => step_of_schedule_cons, step_of_schedule_cons, step_of_schedule_cons, fun r hsched hp => ?_⟩
  have hturn : engineTurn r { s with schedule := rest } = .next { s with schedule := rest } :=
    engineTurn_of_idle r hp
  rw [step_of_schedule_cons hsched, perform, hturn]

/-- Settles O6: every offset reads its slot, with CAP, CTRL and STATUS written out by their fields. -/
theorem hostReadReturnsEachRegister : Obligations.HostReadReturnsEachRegister := by
  intro s hin
  refine ⟨hostRead_of_readSlot hin rfl (capWord_eq s), hostRead_of_readSlot hin rfl (readSlot_ctrl s),
    hostRead_eq hin rfl, hostRead_of_readSlot hin rfl (statusWord_eq s), hostRead_eq hin rfl, hostRead_eq hin rfl,
    hostRead_eq hin rfl, hostRead_eq hin rfl, hostRead_eq hin rfl, hostRead_eq hin rfl, hostRead_eq hin rfl,
    fun off hoff => ?_⟩
  simp only [List.mem_cons, List.not_mem_nil, or_false] at hoff
  obtain rfl | rfl | rfl | rfl | rfl := hoff <;> exact hostRead_eq hin rfl

/-- Settles O11: the two outcomes of the checks of R113, for both accesses. -/
theorem undefinedHostAccessesAreRefused : Obligations.UndefinedHostAccessesAreRefused := by
  intro s width off v hin
  refine ⟨fun hundefined => ?_, fun hdefined => ?_⟩
  · obtain ⟨f, hf⟩ := exists_accessRefusal_eq_some_iff.2 hundefined
    exact ⟨⟨f, hostAccess_of_refusal hin hf⟩, f, hostAccess_of_refusal hin hf⟩
  · have hnone := accessRefusal_eq_none.2 hdefined
    exact ⟨⟨_, hostAccess_of_defined hin hnone⟩, _, hostAccess_of_defined hin hnone⟩

/-- Settles O12: the accept step, with DONE = 0 taking irq down. -/
theorem acceptLatchesTheCommand : Obligations.AcceptLatchesTheCommand :=
  fun _ v hin hbusy => hostWrite_cmd_of_not_busy v hin hbusy

/-- Settles O13: the dropped write sets CMD_OVF, which irq does not follow. -/
theorem busyBlockDropsCommand : Obligations.BusyBlockDropsCommand := by
  intro s v hin hbusy hirq
  have hdrop : writeSlot (slotOf 0x10) v s = { s with cmdOvf := true } := writeCmd_of_busy v hbusy
  rw [hostWrite_of_irq hin rfl (by rw [hdrop]; exact hirq), hdrop]
end

section
/-!
PROOFS of the family 41_sqrt.md. The contract of R140 and the neighbours of R144 are those of `Nat.sqrt`, which `isqrt`
computes; SQRT64 and SQRT128 take the steps every register command takes, and their roots fit in RES_LO, so that
`complete` leaves RES_HI = 0.
-/

namespace Sys2Proof.Machine

variable {i : Instr} {s : State}

/-! ### The contract of the integer square root -/

theorem eq_isqrt_iff {n r : Nat} : r = isqrt n ↔ r * r ≤ n ∧ n < (r + 1) * (r + 1) := by
  rw [isqrt_eq_sqrt]
  exact Nat.eq_sqrt

theorem isqrt_mono {m n : Nat} (h : m ≤ n) : isqrt m ≤ isqrt n := by
  rw [isqrt_eq_sqrt, isqrt_eq_sqrt]
  exact Nat.sqrt_le_sqrt h

/-- From one square up to the next, 2 * k further, the root is k. -/
theorem isqrt_mul_self_add {k d : Nat} (hd : d ≤ 2 * k) : isqrt (k * k + d) = k :=
  (eq_isqrt_iff.2 ⟨Nat.le_add_right _ _, by linarith [Nat.succ_mul_succ k k]⟩).symm

/-- One below a square is 2 * k above the square before it. -/
theorem isqrt_mul_self_sub_one {k : Nat} (hk : 1 ≤ k) : isqrt (k * k - 1) = k - 1 := by
  obtain ⟨j, rfl⟩ := Nat.exists_eq_add_of_le' hk
  have hbelow : (j + 1) * (j + 1) - 1 = j * j + 2 * j := by
    rw [Nat.succ_mul_succ]
    omega
  rw [hbelow, Nat.add_sub_cancel]
  exact isqrt_mul_self_add le_rfl

/-! ### The steps of a register command -/

/-- A command that touches no memory enters EXEC when its check passes (40_command_interface.md R119). -/
theorem exec_of_check_pass (hw : tableWidth i = none) (hp : s.phase = .validate) (hc : checkOf i s = none) :
    exec i s = .next (enterExec s) := by
  rw [exec_oneStep hw, oneStepCommand_eq, hp, hc]
  rfl

/-- A command that touches no memory ends with the fault its check reports (40_command_interface.md R119). -/
theorem exec_of_check_fail {c : ErrCode} {w : Word} (hw : tableWidth i = none) (hp : s.phase = .validate)
    (hc : checkOf i s = some (c, w)) : exec i s = .next (raiseFault c w s) := by
  rw [exec_oneStep hw, oneStepCommand_eq, hp, hc]
  rfl

/-- A command that touches no memory ends in its one EXEC step (40_command_interface.md R120). -/
theorem exec_of_exec_phase (hw : tableWidth i = none) (hp : s.phase = .exec) :
    exec i s = .next (complete (resultOf i s) s) := by
  rw [exec_oneStep hw, oneStepCommand_eq, hp]

/-- A result that fits in RES_LO leaves RES_HI = 0 (40_command_interface.md R121). -/
theorem complete_of_lt {res : Nat} (h : res < 2 ^ 64) (s : State) :
    complete res s = { s with
      resLo := BitVec.ofNat 64 res, resHi := 0, err := false, errcode := .none, busy := false, done := true,
      phase := .idle, irq := s.ie } := by
  rw [complete, Nat.div_eq_of_lt h]
  rfl

theorem checkOf_sqrt128_of_wide (hwide : s.cfg.wide128 = true) : checkOf .sqrt128 s = none := if_pos hwide

theorem checkOf_sqrt128_of_narrow (hwide : s.cfg.wide128 = false) :
    checkOf .sqrt128 s = some (.unsupported, s.lop) := if_neg (by simp [hwide])

/-- L.a1 : L.a0 is a 128-bit number (41_sqrt.md R142). -/
theorem wideOperand_lt (s : State) : wideOperand s < 2 ^ 64 * 2 ^ 64 := by
  have h0 := s.la0.isLt
  have h1 := s.la1.isLt
  unfold wideOperand
  omega

end Sys2Proof.Machine

open Sys2Proof Sys2Proof.Machine

/-- Settles O16: `isqrt` is the floor of the square root, which the two inequalities pin down. -/
theorem isqrtMeetsItsContract : Obligations.IsqrtMeetsItsContract :=
  fun _ _ => eq_isqrt_iff

/-- Settles O17: each neighbour lies between two squares, by its distance from the lower one. -/
theorem isqrtBesideSquaresAndMonotone : Obligations.IsqrtBesideSquaresAndMonotone :=
  ⟨fun _ hk => ⟨isqrt_mul_self_add (Nat.zero_le _), isqrt_mul_self_sub_one hk, isqrt_mul_self_add (by omega)⟩,
    fun _ _ => isqrt_mono, isqrt_mul_self_add (k := 0) le_rfl⟩

/-- Settles O18: SQRT64 has no operand check, and the root of a 64-bit number has 32 bits. -/
theorem sqrt64Completes : Obligations.Sqrt64Completes := by
  refine fun s => ⟨fun hp => exec_of_check_pass rfl hp rfl, fun hp => ?_⟩
  have hroot : isqrt s.la0.toNat < 2 ^ 32 := isqrt_lt_of_lt_mul_self s.la0.isLt
  refine ⟨isqrt s.la0.toNat, isqrt_mul_self_le _, lt_isqrt_succ_mul_self _, hroot, ?_⟩
  rw [exec_of_exec_phase rfl hp]
  exact congrArg Host.Outcome.next (complete_of_lt (hroot.trans (by decide)) s)

/-- Settles O19: WIDE128 alone decides the check of SQRT128, and the root of a 128-bit number has 64 bits. -/
theorem sqrt128Completes : Obligations.Sqrt128Completes := by
  refine fun s => ⟨fun hp hwide => exec_of_check_pass rfl hp (checkOf_sqrt128_of_wide hwide),
    fun hp hwide => exec_of_check_fail rfl hp (checkOf_sqrt128_of_narrow hwide), fun hp => ?_⟩
  have hroot : isqrt (wideOperand s) < 2 ^ 64 := isqrt_lt_of_lt_mul_self (wideOperand_lt s)
  refine ⟨isqrt (wideOperand s), isqrt_mul_self_le _, lt_isqrt_succ_mul_self _, hroot, ?_⟩
  rw [exec_of_exec_phase rfl hp]
  exact congrArg Host.Outcome.next (complete_of_lt hroot s)
end

section
/-!
PROOFS of the family 42_invtab.md. One equation for each engine step of a table command; the recurrence of R162 makes a
true inverse from a true inverse; then the state at the head of the loop after k entries, which a run from VALIDATE
reaches at turn 2k, and from there the two ends of the command. Width independence compares two such runs: the index
where a run ends depends on n and m alone, and an inverse below m is unique.
-/

namespace Sys2Proof.Machine

variable {b : ElemWidth} {i : Instr} {s : State}

/-! ### The engine steps of a table command -/

section Steps

variable (hw : tableWidth i = some b)
include hw

/-- A table command whose check reports a fault ends with it, wherever its table lies (42_invtab.md R161). -/
theorem exec_of_tableCheck_fail (hp : s.phase = .validate) {c : ErrCode} {w : Word}
    (hc : checkInvtab b s = some (c, w)) : exec i s = .next (raiseFault c w s) := by
  simp only [exec_table hw, tableCommand, hp, validateInvtab, hc]

/-- A table command with valid operands and a span in ordinary memory goes on to step W1 (42_invtab.md R161). -/
theorem exec_of_tableCheck_pass (hp : s.phase = .validate) (hvalid : TableOperandsValid b s)
    (hplaced : TablePlaced b s) : exec i s = .next (startTable s) := by
  simp only [exec_table hw, tableCommand, hp, validateInvtab, checkInvtab_eq_none.2 hvalid,
    (tableRefusal_eq_none hvalid).2 hplaced]

/-- In EXEC a table command takes the next step of its sequence (42_invtab.md R162). -/
theorem exec_table_of_exec_phase (hp : s.phase = .exec) : exec i s = tableStep b s := by
  simp only [exec_table hw, tableCommand, hp]

/-- Step W1 (42_invtab.md R162). -/
theorem exec_seed (hp : s.phase = .exec) (hseq : s.seq = .w1) (hvalid : TableOperandsValid b s) (hb : s.bus = .ok) :
    exec i s = .next (seedWritten (putEntry b (entryAddr b s 1) 1 s)) := by
  rw [exec_table_of_exec_phase hw hp, tableStep, hseq]
  exact portWrite_ok (entryAddr_inSpace hvalid hvalid.one_le_opN) hb 1 seedWritten

/-- Step Ra at an index that leaves a remainder (42_invtab.md R162). -/
theorem exec_readBack (hp : s.phase = .exec) (hseq : s.seq = .ra) (hvalid : TableOperandsValid b s)
    (h1 : 1 ≤ s.idx.toNat) (hn : s.idx.toNat ≤ opN s) (hr : opM s % s.idx.toNat ≠ 0) (hb : s.bus = .ok) :
    exec i s = .next (entryRead (s.mem.readLE (entryAddr b s (opM s % s.idx.toNat)) b.bytes) s) := by
  have hbelow : opM s % s.idx.toNat ≤ opN s := (Nat.mod_lt _ h1).le.trans hn
  rw [exec_table_of_exec_phase hw hp, tableStep, hseq]
  simp only [if_pos hn, stepRa, if_neg hr]
  exact portRead_ok (entryAddr_inSpace hvalid hbelow) hb entryRead

/-- Step Ra at an index that divides m (42_invtab.md R164). -/
theorem exec_noncoprime (hp : s.phase = .exec) (hseq : s.seq = .ra) (hn : s.idx.toNat ≤ opN s)
    (hr : opM s % s.idx.toNat = 0) : exec i s = .next (raiseFault .noncoprime s.idx s) := by
  rw [exec_table_of_exec_phase hw hp, tableStep, hseq]
  simp only [if_pos hn, stepRa, if_pos hr]

/-- Step Wa (42_invtab.md R162). -/
theorem exec_writeEntry (hp : s.phase = .exec) (hseq : s.seq = .wa) (hvalid : TableOperandsValid b s)
    (hn : s.idx.toNat ≤ opN s) (hb : s.bus = .ok) :
    exec i s = .next (entryWritten (putEntry b (entryAddr b s s.idx.toNat) (entryValue s) s)) := by
  rw [exec_table_of_exec_phase hw hp, tableStep, hseq]
  exact portWrite_ok (entryAddr_inSpace hvalid hn) hb (entryValue s) entryWritten

/-- Step END (42_invtab.md R162). -/
theorem exec_tableEnd (hp : s.phase = .exec) (hseq : s.seq = .ra) (hn : opN s < s.idx.toNat) :
    exec i s = .next (complete (opN s) s) := by
  rw [exec_table_of_exec_phase hw hp, tableStep, hseq]
  exact if_neg (by omega)

end Steps

/-! ### The operands of a valid table -/

section Operands

variable (hvalid : TableOperandsValid b s)
include hvalid

theorem TableOperandsValid.opM_eq : (opM s : Int) = sval s.la1 := by
  obtain ⟨-, hm, -⟩ := hvalid
  exact Int.toNat_of_nonneg (by omega)

theorem TableOperandsValid.two_le_opM : 2 ≤ opM s := by
  have hm := hvalid.opM_eq
  obtain ⟨-, h2, -⟩ := hvalid
  omega

/-- The modulus fits in an entry (42_invtab.md R161, MMAX). -/
theorem TableOperandsValid.opM_lt : opM s < 256 ^ b.bytes := by
  have hm := hvalid.opM_eq
  obtain ⟨-, -, hmax, -⟩ := hvalid
  exact lt_of_le_of_lt (by omega) (mMax_lt b s.cfg.wide128)

/-- L.a0 is n itself, since its sign bit is 0. -/
theorem TableOperandsValid.ofNat_opN : BitVec.ofNat 64 (opN s) = s.la0 := by
  obtain ⟨hn, -⟩ := hvalid
  rw [opN, sval_toNat_of_nonneg (by omega), BitVec.ofNat_toNat, BitVec.setWidth_eq]

/-- A value below m that is written to entry k reads back as itself (20_memory.md R60). -/
theorem TableOperandsValid.readLE_writeLE_entry {m : Memory} (hm : m.wf = true) {k v : Nat} (hk : k ≤ opN s)
    (hv : v < opM s) : (m.writeLE (entryAddr b s k) b.bytes v).readLE (entryAddr b s k) b.bytes = v := by
  have hsp : entryAddr b s k + b.bytes ≤ 2 ^ 64 := of_decide_eq_true (entryAddr_inSpace hvalid hk)
  rw [Memory.readLE_writeLE hm hsp, Nat.mod_eq_of_lt (hv.trans hvalid.opM_lt)]

end Operands

/-! ### What a step leaves alone -/

section Frame

variable {t : State}

/-- Only step W1 and step Wa write, each the entry of its own index (42_invtab.md R162). -/
theorem exists_pendingWrite_iff {addr : Nat} : (∃ v, pendingWrite b s = some (addr, v)) ↔
    (s.seq = .w1 ∧ addr = entryAddr b s 1 ∨ s.seq = .wa ∧ addr = entryAddr b s s.idx.toNat) := by
  cases hseq : s.seq <;> simp [pendingWrite, hseq, eq_comm]

/-- RES changes only in a successful end (10_state.md R33). -/
theorem CommandEffect.result_eq (h : CommandEffect i s t) (ht : t.phase ≠ .idle ∨ t.err = true) :
    t.resLo = s.resLo ∧ t.resHi = s.resHi := by
  cases h with
  | stay | fault => exact ⟨rfl, rfl⟩
  | finish => simp at ht
  | advance _ hadv =>
    obtain ⟨_, _, _, _, _, _, -, rfl⟩ := hadv.frame
    exact ⟨rfl, rfl⟩

/-- A step that ends the command does not move the place in the sequence. -/
theorem CommandEffect.seq_eq_or_exec (h : CommandEffect i s t) : t.seq = s.seq ∨ t.phase = .exec := by
  cases h with
  | stay | fault | finish => exact .inl rfl
  | advance _ hadv => exact .inr hadv.exec_lop.1

/-- PROGRESS moves only with the writes of step W1 and step Wa (10_state.md R35). -/
theorem CommandEffect.progress_eq (h : CommandEffect i s t) (hs : s.phase ≠ .exec ∨ s.seq = .ra) :
    t.progress = s.progress := by
  cases h with
  | stay | fault | finish => rfl
  | advance _ hadv =>
    cases hadv with
    | enter | start | read => rfl
    | seed _ hp _ hseq | write _ hp _ hseq => simp [hp, hseq] at hs

end Frame

/-! ### The recurrence makes true inverses -/

section Inverses

variable {m j k v w : Nat}

/-- `v` is the entry that index j of a table modulo m is to hold (42_invtab.md R167). -/
def IsInverse (m j v : Nat) : Prop := v < m ∧ j * v % m = 1

theorem isInverse_one (hm : 2 ≤ m) : IsInverse m 1 1 := ⟨hm, Nat.mod_eq_of_lt hm⟩

theorem IsInverse.modEq (h : IsInverse m j v) : j * v ≡ 1 [MOD m] := by
  obtain ⟨hv, hmod⟩ := h
  have hm : 1 < m := hmod ▸ Nat.mod_lt _ (by omega)
  rw [Nat.ModEq, hmod, Nat.mod_eq_of_lt hm]

theorem IsInverse.coprime (h : IsInverse m j v) : Nat.Coprime j m := Nat.coprime_of_mul_modEq_one v h.modEq

/-- An index has one inverse below m. -/
theorem IsInverse.unique (hv : IsInverse m j v) (hw : IsInverse m j w) : v = w := by
  refine Nat.ModEq.eq_of_lt_of_lt (m := m) ?_ hv.1 hw.1
  calc v = v * 1 := (mul_one v).symm
    _ ≡ v * (j * w) [MOD m] := hw.modEq.symm.mul_left v
    _ = w * (j * v) := by ring
    _ ≡ w * 1 [MOD m] := hv.modEq.mul_left w
    _ = w := mul_one w

/-- The value of step Wa is -(m div i) * v modulo m. -/
theorem invEntry_add_modEq_zero (hm : 0 < m) (i v : Nat) : invEntry m i v + m / i * v ≡ 0 [MOD m] := by
  have hle : m / i * v % m ≤ m := (Nat.mod_lt _ hm).le
  calc invEntry m i v + m / i * v ≡ (m - m / i * v % m) + m / i * v % m [MOD m] :=
        (Nat.mod_modEq _ m).add (Nat.mod_modEq _ m).symm
    _ = m := Nat.sub_add_cancel hle
    _ ≡ 0 [MOD m] := by simp [Nat.ModEq]

/-- R167's step: with m = q*i + r and v the inverse of r, both i * w + i*q*v and r * v + i*q*v are 0 modulo m. -/
theorem isInverse_invEntry {i : Nat} (h : IsInverse m (m % i) v) : IsInverse m i (invEntry m i v) := by
  have hm : 0 < m := by have := h.1; omega
  have hw : i * invEntry m i v + i * (m / i * v) ≡ 0 [MOD m] := by
    simpa [mul_add] using (invEntry_add_modEq_zero hm i v).mul_left i
  have hr : m % i * v + i * (m / i * v) ≡ 0 [MOD m] := by
    rw [← mul_assoc, ← add_mul, Nat.mod_add_div]
    exact (Nat.modEq_zero_iff_dvd).2 (Dvd.intro v rfl)
  have hone : i * invEntry m i v % m = m % i * v % m := Nat.ModEq.add_right_cancel' _ (hw.trans hr.symm)
  exact ⟨invEntry_lt hm i v, hone.trans h.2⟩

/-- An index from 2 up that is coprime to m does not divide it. -/
theorem mod_ne_zero_of_coprime (h2 : 2 ≤ j) (h : Nat.Coprime j m) : m % j ≠ 0 := fun hzero => by
  have hone := h.eq_one_of_dvd (Nat.dvd_of_mod_eq_zero hzero)
  omega

/-- Where a table command stops looking for the next index: after n entries, or before the first divisor of m. -/
theorem exists_lastEntry (m : Nat) {n : Nat} (hn : 1 ≤ n) : ∃ k, 1 ≤ k ∧ k ≤ n ∧
    (∀ j, 2 ≤ j → j ≤ k → m % j ≠ 0) ∧ (k = n ∨ k + 1 ≤ n ∧ m % (k + 1) = 0) := by
  induction n, hn using Nat.le_induction with
  | base => exact ⟨1, le_rfl, le_rfl, fun j h2 h1 => by omega, .inl rfl⟩
  | succ n hn ih =>
    obtain ⟨k, h1, hk, hno, rfl | ⟨hlt, hdvd⟩⟩ := ih
    · by_cases hdvd : m % (k + 1) = 0
      · exact ⟨k, h1, by omega, hno, .inr ⟨le_rfl, hdvd⟩⟩
      · refine ⟨k + 1, by omega, le_rfl, fun j h2 hj => ?_, .inl rfl⟩
        obtain hj | rfl := Nat.le_succ_iff.1 hj
        · exact hno j h2 hj
        · exact hdvd
    · exact ⟨k, h1, by omega, hno, .inr ⟨by omega, hdvd⟩⟩

end Inverses

/-! ### The table after k entries -/

theorem entryAddr_succ (b : ElemWidth) (s : State) (k : Nat) :
    entryAddr b s (k + 1) = entryAddr b s k + b.bytes := by
  rw [entryAddr, entryAddr, Nat.succ_mul, add_assoc]

theorem entryAddr_mono (b : ElemWidth) (s : State) {j k : Nat} (h : j ≤ k) : entryAddr b s j ≤ entryAddr b s k :=
  Nat.add_le_add_left (Nat.mul_le_mul_right _ h) _

theorem entryAddr_one (b : ElemWidth) (s : State) : entryAddr b s 1 = s.la2.toNat + b.bytes := by
  rw [entryAddr, one_mul]

/-- `m` is the memory of `s` with the entries 1 .. k of the table filled by true inverses. -/
structure EntriesUpTo (b : ElemWidth) (s : State) (k : Nat) (m : Memory) : Prop where
  wf : m.wf = true
  inverse : ∀ j, 1 ≤ j → j ≤ k → IsInverse (opM s) j (m.readLE (entryAddr b s j) b.bytes)
  outside : ∀ a, (a < entryAddr b s 1 ∨ entryAddr b s (k + 1) ≤ a) → m.readByte a = s.mem.readByte a

theorem EntriesUpTo.empty (hm : s.mem.wf = true) : EntriesUpTo b s 0 s.mem :=
  ⟨hm, fun j h1 h0 => by omega, fun _ _ => rfl⟩

/-- Writing the next entry keeps those before it, which lie below its B bytes. -/
theorem EntriesUpTo.write {k v : Nat} {m : Memory} (h : EntriesUpTo b s k m) (hvalid : TableOperandsValid b s)
    (hk : k + 1 ≤ opN s) (hv : IsInverse (opM s) (k + 1) v) :
    EntriesUpTo b s (k + 1) (m.writeLE (entryAddr b s (k + 1)) b.bytes v) where
  wf := Memory.wf_writeLE h.wf (of_decide_eq_true (entryAddr_inSpace hvalid hk))
  inverse j h1 hj := by
    obtain hj | rfl := Nat.le_succ_iff.1 hj
    · have hbelow : entryAddr b s j + b.bytes ≤ entryAddr b s (k + 1) :=
        entryAddr_succ b s j ▸ entryAddr_mono b s (Nat.succ_le_succ hj)
      rw [Memory.readLE_congr fun a _ ha => Memory.readByte_writeLE_other m (.inl (by omega))]
      exact h.inverse j h1 hj
    · rw [hvalid.readLE_writeLE_entry h.wf hk hv.1]
      exact hv
  outside a ha := by
    have hfirst : entryAddr b s 1 ≤ entryAddr b s (k + 1) := entryAddr_mono b s (by omega)
    have hnext := entryAddr_succ b s (k + 1)
    rw [Memory.readByte_writeLE_other m (by omega)]
    exact h.outside a (by omega)

/-! ### Runs of a table command -/

theorem engineRun_add {k l : Nat} {t : State} (h : engineRun k s = .next t) :
    engineRun (k + l) s = engineRun l t := by
  induction k generalizing s with
  | zero =>
    cases h
    rw [Nat.zero_add]
  | succ k ih =>
    rw [Nat.succ_add, engineRun]
    rw [engineRun] at h
    cases hturn : engineTurn .ok s with
    | next u => exact ih (by simpa only [hturn] using h)
    | fault | refused => simp [hturn] at h

theorem engineRun_one {t : State} (h : engineTurn .ok s = .next t) : engineRun 1 s = .next t := by
  simp only [engineRun, h]

theorem engineRun_two {t u : State} (h1 : engineTurn .ok s = .next t) (h2 : engineTurn .ok t = .next u) :
    engineRun 2 s = .next u := (engineRun_add (engineRun_one h1)).trans (engineRun_one h2)

/-- The head of the loop of 42_invtab.md R162 after k entries, with `v` in tmpv and `m` as memory. -/
def loopHead (s : State) (k : Nat) (v : Word) (m : Memory) : State :=
  { s with
    bus := .ok
    phase := .exec
    progress := BitVec.ofNat 64 k
    idx := BitVec.ofNat 64 (k + 1)
    tmpv := v
    seq := .ra
    mem := m }

section Loop

variable {k : Nat} {v : Word} {m : Memory}

theorem toNat_ofNat_of_le_opN {x : Nat} (h : x ≤ opN s + 1) : (BitVec.ofNat 64 x).toNat = x := by
  have hn := opN_lt s
  exact BitVec.toNat_ofNat x 64 ▸ Nat.mod_eq_of_lt (by omega)

theorem loopHead_idx (hk : k ≤ opN s) : (loopHead s k v m).idx.toNat = k + 1 :=
  toNat_ofNat_of_le_opN (Nat.succ_le_succ hk)

theorem entryWritten_loopHead (addr w x : Nat) : entryWritten (putEntry b addr w (entryRead x (loopHead s k v m))) =
    loopHead s (k + 1) (BitVec.ofNat 64 x) (m.writeLE addr b.bytes w) := by
  unfold loopHead
  rw [BitVec.ofNat_add (k + 1) 1]
  rfl

variable (hs : TableReady i b s)
include hs

theorem TableReady.tableWidth_eq : tableWidth i = some b := by
  obtain ⟨hw, -⟩ := hs
  exact hw

theorem TableReady.phase_eq : s.phase = .validate := by
  obtain ⟨-, -, hp, -⟩ := hs
  exact hp

theorem TableReady.operandsValid : TableOperandsValid b s := by
  obtain ⟨-, -, -, -, -, hvalid, -⟩ := hs
  exact hvalid

/-- While the command runs, a turn without a bus error is a step of it. -/
theorem TableReady.engineTurn_eq_exec (t : State) (hlop : t.lop = s.lop) (hreset : t.inReset = s.inReset)
    (hp : t.phase = .exec) (hb : t.bus = .ok) : engineTurn .ok t = exec i t := by
  obtain ⟨-, hop, -, hin, -⟩ := hs
  rw [engineTurn_of_legal .ok (hreset.trans hin) (by simp [hp]) (hlop ▸ hop), ← hb]

/-- VALIDATE and step W1 write entry 1. -/
theorem TableReady.run_to_firstHead : ∃ v m, engineRun 2 s = .next (loopHead s 1 v m) ∧ EntriesUpTo b s 1 m := by
  obtain ⟨hw, hop, hp, hin, hmem, hvalid, hplaced⟩ := id hs
  have hstart : engineTurn .ok s = .next (startTable { s with bus := .ok }) :=
    (engineTurn_of_legal .ok hin (by simp [hp]) hop).trans
      (exec_of_tableCheck_pass (s := { s with bus := .ok }) hw hp hvalid hplaced)
  have hseed : engineTurn .ok (startTable { s with bus := .ok }) =
      .next (loopHead s 1 s.tmpv (s.mem.writeLE (entryAddr b s 1) b.bytes 1)) :=
    (hs.engineTurn_eq_exec (startTable { s with bus := .ok }) rfl rfl rfl rfl).trans
      (exec_seed (s := startTable { s with bus := .ok }) hw rfl rfl hvalid rfl)
  exact ⟨_, _, engineRun_two hstart hseed,
    (EntriesUpTo.empty hmem).write hvalid hvalid.one_le_opN (isInverse_one hvalid.two_le_opM)⟩

/-- Step Ra after k entries reads the entry of the remainder. -/
theorem TableReady.turn_readBack (hk : k + 1 ≤ opN s) (hr : opM s % (k + 1) ≠ 0) :
    engineTurn .ok (loopHead s k v m) =
      .next (entryRead (m.readLE (entryAddr b s (opM s % (k + 1))) b.bytes) (loopHead s k v m)) := by
  have hidx : (loopHead s k v m).idx.toNat = k + 1 := loopHead_idx (by omega)
  have hstep := exec_readBack (s := loopHead s k v m) hs.tableWidth_eq rfl rfl hs.operandsValid (by omega) (hidx ▸ hk)
    (hidx ▸ hr) rfl
  rw [hs.engineTurn_eq_exec (loopHead s k v m) rfl rfl rfl rfl, hstep, hidx]
  rfl

/-- Step Wa after k entries writes entry k + 1 and goes back to the head of the loop. -/
theorem TableReady.turn_writeEntry {x : Nat} (hk : k + 1 ≤ opN s) (hx : x < opM s) :
    engineTurn .ok (entryRead x (loopHead s k v m)) = .next (loopHead s (k + 1) (BitVec.ofNat 64 x)
      (m.writeLE (entryAddr b s (k + 1)) b.bytes (invEntry (opM s) (k + 1) x))) := by
  have hidx : (loopHead s k v m).idx.toNat = k + 1 := loopHead_idx (by omega)
  have htmpv : (BitVec.ofNat 64 x).toNat = x := by
    have hm := sval_range s.la1
    exact BitVec.toNat_ofNat x 64 ▸ Nat.mod_eq_of_lt (by unfold opM at hx; omega)
  have hvalue : entryValue (entryRead x (loopHead s k v m)) = invEntry (opM s) (k + 1) x := by
    rw [entryValue, entryRead_idx, entryRead_tmpv, hidx, htmpv]
    rfl
  have hstep := exec_writeEntry (s := entryRead x (loopHead s k v m)) hs.tableWidth_eq rfl rfl hs.operandsValid
    (hidx ▸ hk) rfl
  rw [hs.engineTurn_eq_exec (entryRead x (loopHead s k v m)) rfl rfl rfl rfl, hstep, hvalue, entryRead_idx, hidx,
    entryWritten_loopHead]
  rfl

/-- Step END comes after n entries. -/
theorem TableReady.turn_end :
    engineTurn .ok (loopHead s (opN s) v m) = .next (complete (opN s) (loopHead s (opN s) v m)) := by
  have hidx : (loopHead s (opN s) v m).idx.toNat = opN s + 1 := loopHead_idx le_rfl
  rw [hs.engineTurn_eq_exec (loopHead s (opN s) v m) rfl rfl rfl rfl]
  exact exec_tableEnd hs.tableWidth_eq rfl rfl (hidx ▸ Nat.lt_succ_self _)

/-- Step Ra after k entries ends the command if index k + 1 divides m. -/
theorem TableReady.turn_noncoprime (hk : k + 1 ≤ opN s) (hr : opM s % (k + 1) = 0) :
    engineTurn .ok (loopHead s k v m) =
      .next (raiseFault .noncoprime (BitVec.ofNat 64 (k + 1)) (loopHead s k v m)) := by
  have hidx : (loopHead s k v m).idx.toNat = k + 1 := loopHead_idx (by omega)
  rw [hs.engineTurn_eq_exec (loopHead s k v m) rfl rfl rfl rfl]
  exact exec_noncoprime hs.tableWidth_eq rfl rfl (hidx ▸ hk) (hidx ▸ hr)

/-- Steps Ra and Wa: the remainder is an index before k + 1, so the entry read back is a true inverse (R163, R167). -/
theorem TableReady.run_loopBody (hk : k + 1 ≤ opN s) (hr : opM s % (k + 1) ≠ 0) (hm : EntriesUpTo b s k m) :
    ∃ v' m', engineRun 2 (loopHead s k v m) = .next (loopHead s (k + 1) v' m') ∧ EntriesUpTo b s (k + 1) m' := by
  have hinv := hm.inverse (opM s % (k + 1)) (Nat.pos_of_ne_zero hr) (Nat.le_of_lt_succ (Nat.mod_lt _ k.succ_pos))
  exact ⟨_, _, engineRun_two (hs.turn_readBack hk hr) (hs.turn_writeEntry hk hinv.1),
    hm.write hs.operandsValid hk (isInverse_invEntry hinv)⟩

/-- While no index divides m, the run is at the head of the loop after k entries at its turn 2k (42_invtab.md R169). -/
theorem TableReady.run_to_loopHead (h1 : 1 ≤ k) (hk : k ≤ opN s)
    (hno : ∀ j, 2 ≤ j → j ≤ k → opM s % j ≠ 0) :
    ∃ v m, engineRun (2 * k) s = .next (loopHead s k v m) ∧ EntriesUpTo b s k m := by
  induction k, h1 using Nat.le_induction with
  | base => exact hs.run_to_firstHead
  | succ k h1 ih =>
    obtain ⟨v, m, hrun, hm⟩ := ih (by omega) fun j h2 hj => hno j h2 (by omega)
    obtain ⟨v', m', hbody, hm'⟩ := hs.run_loopBody (v := v) hk (hno (k + 1) (by omega) le_rfl) hm
    exact ⟨v', m', (engineRun_add hrun).trans hbody, hm'⟩

/-- With no divisor of m among the indices the run goes through step END (42_invtab.md R169). -/
theorem TableReady.run_to_end (hno : ∀ j, 2 ≤ j → j ≤ opN s → opM s % j ≠ 0) :
    ∃ v m, engineRun (2 * opN s) s = .next (loopHead s (opN s) v m) ∧
      engineRun (2 * opN s + 1) s = .next (complete (opN s) (loopHead s (opN s) v m)) ∧
      EntriesUpTo b s (opN s) m := by
  obtain ⟨v, m, hrun, hm⟩ := hs.run_to_loopHead hs.operandsValid.one_le_opN le_rfl hno
  exact ⟨v, m, hrun, (engineRun_add hrun).trans (engineRun_one hs.turn_end), hm⟩

/-- The first divisor of m among the indices ends the run with NONCOPRIME (42_invtab.md R164). -/
theorem TableReady.run_to_divisor (h1 : 1 ≤ k) (hk : k + 1 ≤ opN s) (hr : opM s % (k + 1) = 0)
    (hno : ∀ j, 2 ≤ j → j ≤ k → opM s % j ≠ 0) :
    ∃ v m, engineRun (2 * k) s = .next (loopHead s k v m) ∧
      engineRun (2 * k + 1) s = .next (raiseFault .noncoprime (BitVec.ofNat 64 (k + 1)) (loopHead s k v m)) ∧
      EntriesUpTo b s k m := by
  obtain ⟨v, m, hrun, hm⟩ := hs.run_to_loopHead h1 (by omega) hno
  exact ⟨v, m, hrun, (engineRun_add hrun).trans (engineRun_one (hs.turn_noncoprime hk hr)), hm⟩

end Loop

end Sys2Proof.Machine

open Sys2Proof Sys2Proof.Machine

/-- Settles O30: each clause is one branch of the priority order of R161. -/
theorem tableOperandChecks : Obligations.TableOperandChecks := by
  intro i b s hw hp n m mmax B fault
  have hmmax : mmax = mMax b s.cfg.wide128 := by
    cases b with
    | w4 => rfl
    | w8 => cases hwide : s.cfg.wide128 <;> simp [mmax, mMax, hwide]
  have hB : B = b.bytes := by cases b <;> rfl
  have hfail : ∀ {c : ErrCode} {w : Word}, checkInvtab b s = some (c, w) → exec i s = fault c w :=
    exec_of_tableCheck_fail hw hp
  rw [hmmax, hB]
  refine ⟨fun h1 => hfail ?_, fun h1 h2 => hfail ?_, fun h1 h2 => hfail ?_, fun h1 h2 h3 => hfail ?_,
    fun h1 h2 h3 => hfail ?_, fun h1 h2 h3 h4 => hfail ?_, fun h1 h2 h3 h4 h5 => hfail ?_,
    fun h1 h2 h3 h4 h5 hplaced => exec_of_tableCheck_pass hw hp ⟨h1, h2, h3, h4, h5⟩ hplaced⟩
  · rw [checkInvtab, if_pos h1]
  · rw [checkInvtab, if_neg (by omega), if_pos h2]
  · rw [checkInvtab, if_neg (by omega), if_neg (by omega), if_pos h1]
  · rw [checkInvtab, if_neg (by omega), if_neg (by omega), if_neg (by omega), if_pos h3]
  · rw [checkInvtab, if_neg (by omega), if_neg (by omega), if_neg (by omega), if_neg (by omega), if_pos h3]
  · rw [checkInvtab, if_neg (by omega), if_neg (by omega), if_neg (by omega), if_neg (by omega), if_neg (by omega),
      if_pos h4]
  · rw [checkInvtab, if_neg (by omega), if_neg (by omega), if_neg (by omega), if_neg (by omega), if_neg (by omega),
      if_neg (by omega)]
    exact if_pos h5

/-- Settles O32: the equation of step W1, with BASE + 1*B written as BASE + B. -/
theorem tableSeedStep : Obligations.TableSeedStep := by
  intro i b s hw hp hseq hvalid hb
  rw [exec_seed hw hp hseq hvalid hb, entryAddr, one_mul]
  rfl

/-- Settles O33: the equation of step Ra. -/
theorem tableReadBackStep : Obligations.TableReadBackStep :=
  fun _ _ _ hw hp hseq hvalid h1 hn hr hb => exec_readBack hw hp hseq hvalid h1 hn hr hb

/-- Settles O34: the equation of step Wa; its value is the ℤ formula, lies below m, and m fits in an entry. -/
theorem tableWriteStep : Obligations.TableWriteStep := by
  intro i b s hw hp hseq hvalid hn hb hmem
  have hm := hvalid.opM_eq
  have hpos : 0 < opM s := by have := hvalid.two_le_opM; omega
  have hlt : entryValue s < opM s := invEntry_lt hpos _ _
  refine ⟨entryValue s, ?_, ?_, _, exec_writeEntry hw hp hseq hvalid hn hb, rfl,
    hvalid.readLE_writeLE_entry hmem hn hlt⟩
  · rw [entryValue, invEntry_int hpos, hm]
  · rw [← hm]
    exact_mod_cast hlt

/-- Settles O35: the equation of step END; n is below 2^64, so RES_HI is 0. -/
theorem tableEndStep : Obligations.TableEndStep := by
  intro i b s hw hp hseq hvalid hn
  rw [exec_tableEnd hw hp hseq hn, complete_of_lt ((opN_lt s).trans (by decide)), hvalid.ofNat_opN]

/-- Settles O36: the equation of step Ra at a divisor of m. -/
theorem noncoprimeIndexEndsCommand : Obligations.NoncoprimeIndexEndsCommand :=
  fun _ _ _ hw hp hseq hn hr => exec_noncoprime hw hp hseq hn hr

/-- Settles O38: the memory a step can write is that of its pending write, which step W1 and step Wa alone have. -/
theorem tableCommandFrame : Obligations.TableCommandFrame := by
  intro i b s t hw hexec
  have heff := exec_commandEffect hexec
  have hmem : t.mem = s.mem ∨ s.phase = .exec ∧ WritesPending b s t := by
    obtain hmem | ⟨b', hp, hw', hwrite⟩ := (exec_next hexec).mem_cases
    · exact .inl hmem
    · obtain rfl : b = b' := by simpa [hw] using hw'
      exact .inr ⟨hp, hwrite⟩
  refine ⟨heff.sameOutside, heff.result_eq, heff.seq_eq_or_exec, fun hs => ⟨?_, heff.progress_eq hs⟩,
    fun addr hp haddr a ha => ?_⟩
  · obtain hmem | ⟨hp, addr, v, bytes, hpending, -⟩ := hmem
    · exact hmem
    · have hseq := exists_pendingWrite_iff.1 ⟨v, hpending⟩
      obtain hidle | hra := hs
      · exact absurd hp hidle
      · simp [hra] at hseq
  · obtain hmem | ⟨-, addr', v, bytes, hpending, hlen, hmem⟩ := hmem
    · rw [hmem]
    · obtain ⟨v', hpending'⟩ := exists_pendingWrite_iff.2 haddr
      obtain ⟨rfl, -⟩ : addr = addr' ∧ v' = v := by simpa [hpending] using hpending'.symm
      rw [hmem, Memory.readByte_writeBytes_other _ (hlen ▸ ha)]

/-- Settles O40: no index coprime to m divides it, so the run goes through step END with n true inverses written. -/
theorem inverseTableIsCorrect : Obligations.InverseTableIsCorrect := by
  intro i b s hs hcoprime
  obtain ⟨v, m, hrun, hend, hm⟩ := hs.run_to_end fun j h2 hj =>
    mod_ne_zero_of_coprime h2 (hcoprime j (by omega) hj)
  have hn : (BitVec.ofNat 64 (opN s)).toNat = opN s := toNat_ofNat_of_le_opN (Nat.le_succ _)
  rw [complete_of_lt ((opN_lt s).trans (by decide))] at hend
  exact ⟨_, _, hrun, by simp [loopHead], hend, rfl, rfl, rfl, rfl, rfl, hn, rfl, hn, hm.inverse⟩

/-- Settles O41: the run stands before index p after p - 1 true inverses, which make the indices below p coprime. -/
theorem noncoprimeRunKeepsTrueInverses : Obligations.NoncoprimeRunKeepsTrueInverses := by
  intro i b s p hs h2 hp hr hno
  obtain ⟨k, rfl⟩ := Nat.exists_eq_add_of_le' (show 1 ≤ p by omega)
  obtain ⟨v, m, hrun, hend, hm⟩ := hs.run_to_divisor (by omega) hp hr fun j h2 hj => hno j h2 (Nat.lt_succ_of_le hj)
  have hinverse : ∀ j, 1 ≤ j → j < k + 1 → IsInverse (opM s) j (m.readLE (entryAddr b s j) b.bytes) :=
    fun j h1 hj => hm.inverse j h1 (Nat.le_of_lt_succ hj)
  have hinfo : (BitVec.ofNat 64 (k + 1)).toNat = k + 1 := toNat_ofNat_of_le_opN (s := s) (by omega)
  have hprogress : (BitVec.ofNat 64 k).toNat = k := toNat_ofNat_of_le_opN (s := s) (by omega)
  have houtside := hm.outside
  rw [entryAddr_one] at houtside
  exact ⟨⟨fun hcoprime => mod_ne_zero_of_coprime h2 hcoprime hr, fun j h1 hj => (hinverse j h1 hj).coprime⟩,
    _, _, hrun, by simp [loopHead], hend, rfl, rfl, rfl, rfl, rfl, hinfo, hprogress, rfl, rfl, hinverse, houtside⟩

/-- Settles O42: n and m decide where both runs end, and the entries are the same inverses below m. -/
theorem tableWidthIndependence : Obligations.TableWidthIndependence := by
  intro s s' hinv hinv' hs hs' h0 h1 _
  have hn : opN s' = opN s := by rw [opN, opN, h0]
  have hm : opM s' = opM s := by rw [opM, opM, h1]
  have hinfo : s.errinfo = s'.errinfo :=
    (hinv.coherent.errinfo_of_running (by simp [hs.phase_eq])).trans
      (hinv'.coherent.errinfo_of_running (by simp [hs'.phase_eq])).symm
  obtain ⟨k, hk1, hkn, hno, hlast⟩ := exists_lastEntry (opM s) hs.operandsValid.one_le_opN
  have hentries : ∀ {m m' : Memory}, EntriesUpTo .w4 s k m → EntriesUpTo .w8 s' k m' → ∀ j, 1 ≤ j →
      j ≤ (BitVec.ofNat 64 k).toNat → m.readLE (entryAddr .w4 s j) 4 = m'.readLE (entryAddr .w8 s' j) 8 := by
    intro m m' he he' j hj1 hj
    rw [toNat_ofNat_of_le_opN (s := s) (by omega)] at hj
    exact (he.inverse j hj1 hj).unique (hm ▸ he'.inverse j hj1 hj)
  obtain rfl | ⟨hlt, hdvd⟩ := hlast
  · obtain ⟨v, m, -, hend, he⟩ := hs.run_to_end hno
    obtain ⟨v', m', -, hend', he'⟩ := hs'.run_to_end (by rwa [hn, hm])
    rw [hn] at hend' he'
    exact ⟨_, _, _, hend, hend', rfl, rfl, rfl, rfl, hinfo, rfl, fun _ => ⟨rfl, rfl⟩, hentries he he'⟩
  · obtain ⟨v, m, -, hend, he⟩ := hs.run_to_divisor hk1 hlt hdvd hno
    obtain ⟨v', m', -, hend', he'⟩ := hs'.run_to_divisor hk1 (hn ▸ hlt) (hm ▸ hdvd) (hm ▸ hno)
    exact ⟨_, _, _, hend, hend', rfl, rfl, rfl, rfl, rfl, rfl, fun herr => by simp at herr, hentries he he'⟩
end

section
/-!
PROOFS of the family 43_circle.md. The disc is cut into its columns, each an interval of y that ends at a root, so the
sums of R192 count its points; the columns at x and -x are alike, which gives the identity of R191. The counts fit in
128 bits, so RES_HI:RES_LO holds them whole.
-/

namespace Sys2Proof.Machine

variable {n : Nat} {s : State}

/-! ### The columns of the disc -/

theorem le_isqrt {m : Nat} : m ≤ isqrt n ↔ m * m ≤ n := by
  rw [isqrt_eq_sqrt]
  exact Nat.le_sqrt

/-- The disc by its columns: x runs to the root of n, and y to the root of what x leaves (43_circle.md R192). -/
theorem mul_self_add_mul_self_le_iff {x y : Int} :
    x * x + y * y ≤ n ↔ x.natAbs ≤ isqrt n ∧ y.natAbs ≤ isqrt (n - x.natAbs * x.natAbs) := by
  have hx := Int.natAbs_mul_self (a := x)
  have hy := Int.natAbs_mul_self (a := y)
  rw [le_isqrt, le_isqrt]
  omega

/-- A set of points given by its columns has the columns' cardinalities summed. -/
theorem ncard_eq_sum_columns {points : Set (Int × Int)} (xs : Finset Int) (column : Int → Finset Int)
    (h : ∀ x y, (x, y) ∈ points ↔ x ∈ xs ∧ y ∈ column x) :
    points.ncard = ∑ x ∈ xs, (column x).card := by
  have hpoints : points = ((xs.sigma column).map (Equiv.sigmaEquivProd Int Int).toEmbedding : Finset (Int × Int)) := by
    ext ⟨x, y⟩
    rw [h, Finset.mem_coe, Finset.mem_map_equiv, Finset.mem_sigma]
    rfl
  rw [hpoints, Set.ncard_coe_finset, Finset.card_map, Finset.card_sigma]

/-! ### The computed counts as sums over the columns -/

theorem circFullCount_eq_sum (n : Nat) :
    circFullCount n = ∑ x ∈ Finset.Icc (-(isqrt n : Int)) (isqrt n), circColumn n x := by
  have hlen : ((isqrt n : Int) + 1 - -(isqrt n : Int)).toNat = 2 * isqrt n + 1 := by omega
  rw [circFullCount, sumFrom_eq, Int.Icc_eq_finset_map, Finset.sum_map, hlen, Nat.zero_add]
  refine Finset.sum_congr rfl fun j _ => congrArg (circColumn n) ?_
  simp [sub_eq_neg_add]

theorem circQuadCount_eq_sum (n : Nat) :
    circQuadCount n = ∑ x ∈ Finset.Icc (1 : Int) (isqrt n), isqrt (n - x.natAbs * x.natAbs) := by
  rw [circQuadCount, sumFrom_eq, Int.Icc_eq_finset_map, Finset.sum_map, Int.add_sub_cancel, Int.toNat_natCast,
    Nat.zero_add]
  exact Finset.sum_congr rfl fun j _ => rfl

/-- C(n) counts the whole disc (43_circle.md R190). -/
theorem circFullCount_eq_ncard (n : Nat) :
    circFullCount n = Set.ncard {p : Int × Int | p.1 * p.1 + p.2 * p.2 ≤ n} := by
  rw [circFullCount_eq_sum, ncard_eq_sum_columns (Finset.Icc (-(isqrt n : Int)) (isqrt n)) fun x =>
    Finset.Icc (-(isqrt (n - x.natAbs * x.natAbs) : Int)) (isqrt (n - x.natAbs * x.natAbs))]
  · refine Finset.sum_congr rfl fun x _ => ?_
    rw [Int.card_Icc, circColumn]
    omega
  · intro x y
    simp only [Set.mem_ofPred_eq, mul_self_add_mul_self_le_iff, Finset.mem_Icc]
    omega

/-- Q(n) counts the points of the disc with both coordinates at least 1 (43_circle.md R190). -/
theorem circQuadCount_eq_ncard (n : Nat) :
    circQuadCount n = Set.ncard {p : Int × Int | 1 ≤ p.1 ∧ 1 ≤ p.2 ∧ p.1 * p.1 + p.2 * p.2 ≤ n} := by
  rw [circQuadCount_eq_sum, ncard_eq_sum_columns (Finset.Icc 1 (isqrt n : Int)) fun x =>
    Finset.Icc 1 (isqrt (n - x.natAbs * x.natAbs) : Int)]
  · refine Finset.sum_congr rfl fun x _ => ?_
    rw [Int.card_Icc, Int.add_sub_cancel, Int.toNat_natCast]
  · intro x y
    simp only [Set.mem_ofPred_eq, mul_self_add_mul_self_le_iff, Finset.mem_Icc]
    omega

/-! ### The identity of R191 -/

theorem circColumn_neg (n : Nat) (x : Int) : circColumn n (-x) = circColumn n x := by
  rw [circColumn, circColumn, Int.natAbs_neg]

/-- The columns at x and -x beside the axis, and the column on it. -/
theorem circFullCount_eq_halves (n : Nat) :
    circFullCount n = 2 * ∑ j ∈ Finset.range (isqrt n), circColumn n (j + 1 : Nat) + circColumn n 0 := by
  have heven : Function.Even fun x => (circColumn n x : Int) := fun x => congrArg Nat.cast (circColumn_neg n x)
  have hsum := Finset.sum_Icc_of_even_eq_range heven (isqrt n)
  rw [Finset.sum_range_succ', two_nsmul] at hsum
  zify [circFullCount_eq_sum]
  rw [hsum]
  push_cast
  ring

/-- C(n) by its quadrants, half-axes and origin (43_circle.md R191). -/
theorem circFullCount_eq_quadrants (n : Nat) : circFullCount n = 4 * circQuadCount n + 4 * isqrt n + 1 := by
  have hquad : circQuadCount n = ∑ j ∈ Finset.range (isqrt n), isqrt (n - (1 + j) * (1 + j)) := by
    rw [circQuadCount, sumFrom_eq, Nat.zero_add]
  have hhalf : ∑ j ∈ Finset.range (isqrt n), circColumn n (j + 1 : Nat) = 2 * circQuadCount n + isqrt n := by
    simp only [circColumn, Int.natAbs_natCast, Finset.sum_add_distrib, ← Finset.mul_sum, hquad, Nat.add_comm 1]
    simp
  have haxis : circColumn n 0 = 2 * isqrt n + 1 := rfl
  rw [circFullCount_eq_halves, hhalf, haxis]
  ring

theorem circFullCount_mod_four (n : Nat) : circFullCount n % 4 = 1 := by
  have := circFullCount_eq_quadrants n
  omega

/-! ### The steps of CIRCFULL and CIRCQUAD -/

/-- RES_HI:RES_LO of a 128-bit result is the result (40_command_interface.md R121). -/
theorem toNat_words_of_lt {res : Nat} (h : res < 2 ^ 64 * 2 ^ 64) :
    (BitVec.ofNat 64 (res / 2 ^ 64)).toNat * 2 ^ 64 + (BitVec.ofNat 64 res).toNat = res := by
  rw [BitVec.toNat_ofNat, BitVec.toNat_ofNat, Nat.mod_eq_of_lt (Nat.div_lt_of_lt_mul h)]
  exact Nat.div_add_mod' res (2 ^ 64)

/-- A command that touches no memory leaves its whole result in RES_HI:RES_LO, if that has 128 bits
(40_command_interface.md R120, R121). -/
theorem exec_of_result_lt {i : Instr} (hw : tableWidth i = none) (hp : s.phase = .exec)
    (h : resultOf i s < 2 ^ 64 * 2 ^ 64) :
    ∃ lo hi : Word, exec i s = .next { s with
        resLo := lo, resHi := hi, err := false, errcode := .none, busy := false, done := true, phase := .idle,
        irq := s.ie } ∧
      hi.toNat * 2 ^ 64 + lo.toNat = resultOf i s :=
  ⟨_, _, exec_of_exec_phase hw hp, toNat_words_of_lt h⟩

theorem opN_of_nonneg (h : 0 ≤ sval s.la0) : (opN s : Int) = sval s.la0 := Int.toNat_of_nonneg h

theorem checkCirc_of_neg (h : sval s.la0 < 0) : checkCirc s = some (.negative, s.la0) := if_pos h

theorem checkCirc_of_beyond (hwide : s.cfg.wide128 = false) (h : 2 ^ 61 < sval s.la0) :
    checkCirc s = some (.range, s.la0) :=
  (if_neg (by omega)).trans (if_pos ⟨h, hwide⟩)

theorem checkCirc_of_pass (h : 0 ≤ sval s.la0) (hceil : s.cfg.wide128 = true ∨ sval s.la0 ≤ 2 ^ 61) :
    checkCirc s = none := by
  refine (if_neg (by omega)).trans (if_neg ?_)
  rintro ⟨habove, hnarrow⟩
  obtain hwide | hle := hceil
  · simp [hwide] at hnarrow
  · exact absurd habove (not_lt.2 hle)

/-- CIRCFULL and CIRCQUAD share their operand check (43_circle.md R197). -/
theorem checkOf_circle {i : Instr} (hi : i = .circfull ∨ i = .circquad) : checkOf i s = checkCirc s := by
  obtain rfl | rfl := hi <;> rfl

end Sys2Proof.Machine

open Sys2Proof Sys2Proof.Machine

/-- Settles O20: column by column. -/
theorem latticeCountsAreExact : Obligations.LatticeCountsAreExact :=
  fun n => ⟨circFullCount_eq_ncard n, circQuadCount_eq_ncard n⟩

/-- Settles O21: the columns at x and -x are alike; the small values are computed. -/
theorem latticeCountIdentity : Obligations.LatticeCountIdentity :=
  ⟨circFullCount_eq_quadrants, by decide⟩

/-- Settles O22: C(n) is below 2^65 for every non-negative n of the latch. -/
theorem circfullCompletes : Obligations.CircfullCompletes := by
  intro s hp hpos
  obtain ⟨-, -, -, hwide⟩ := ceilingsBoundTheResults
  have hfull : resultOf .circfull s < 2 ^ 65 := (hwide (opN s) (opN_lt s)).1
  obtain ⟨lo, hi, hexec, hres⟩ := exec_of_result_lt rfl hp (hfull.trans (by decide))
  refine ⟨lo, hi, hexec, ?_⟩
  rw [hres, ← opN_of_nonneg hpos]
  exact ⟨circFullCount_eq_ncard (opN s), circFullCount_mod_four (opN s)⟩

/-- Settles O23: Q(n) is at most n. -/
theorem circquadCompletes : Obligations.CircquadCompletes := by
  intro s hp hpos
  have hquad : resultOf .circquad s < 2 ^ 63 := (circQuadCount_le (opN s)).trans_lt (opN_lt s)
  obtain ⟨lo, hi, hexec, hres⟩ := exec_of_result_lt rfl hp (hquad.trans (by decide))
  refine ⟨lo, hi, hexec, ?_⟩
  rw [hres, ← opN_of_nonneg hpos]
  exact circQuadCount_eq_ncard (opN s)

/-- Settles O24: the three answers of the shared operand check. -/
theorem circleOperandChecks : Obligations.CircleOperandChecks := by
  intro s i hi hp
  have hw : tableWidth i = none := by obtain rfl | rfl := hi <;> rfl
  have hcheck := checkOf_circle (s := s) hi
  exact ⟨fun hneg => exec_of_check_fail hw hp (hcheck.trans (checkCirc_of_neg hneg)),
    fun hwide habove => exec_of_check_fail hw hp (hcheck.trans (checkCirc_of_beyond hwide habove)),
    fun hpos hceil => exec_of_check_pass hw hp (hcheck.trans (checkCirc_of_pass hpos hceil))⟩
end

section
/-!
PROOFS of the family 44_divsum.md. The divisor counts sum to the floor sum (Mathlib), and the floor sum counts the
points on and below the hyperbola i * j = n, column by column. The columns right of s = isqrt(n) lie in the first s
rows, and counted by rows they are the first s columns again, each without its s lowest points: the s*s of R211. The
sum fits in 128 bits, so RES_HI:RES_LO holds it whole.
-/

namespace Sys2Proof.Machine

variable {n : Nat} {s : State}

/-! ### The hyperbola method -/

theorem divisors_eq_filter_mod (k : Nat) : k.divisors = (Finset.Icc 1 k).filter fun j => k % j = 0 := by
  rw [Nat.divisors, Finset.Ico_add_one_right_eq_Icc]
  exact Finset.filter_congr fun _ _ => Nat.dvd_iff_mod_eq_zero

/-- The divisor counts of 1 .. n sum to the floor sum (44_divsum.md R210). -/
theorem sum_divisorCount_eq_sum_div (n : Nat) :
    ∑ k ∈ Finset.Icc 1 n, ((Finset.Icc 1 k).filter fun j => k % j = 0).card = ∑ i ∈ Finset.Icc 1 n, n / i := by
  simp only [← divisors_eq_filter_mod, ← ArithmeticFunction.sigma_zero_apply]
  exact ArithmeticFunction.sum_Ioc_sigma0_eq_sum_div n

/-- The points of one row right of column c and on or below the hyperbola. -/
theorem card_filter_mul_le {j : Nat} (c : Nat) (hj : 0 < j) :
    ((Finset.Ioc c n).filter fun i => i * j ≤ n).card = n / j - c := by
  have hrow : (Finset.Ioc c n).filter (fun i => i * j ≤ n) = Finset.Ioc c (n / j) := by
    ext i
    have hdiv := Nat.div_le_self n j
    rw [Finset.mem_filter, Finset.mem_Ioc, Finset.mem_Ioc, ← Nat.le_div_iff_mul_le hj]
    omega
  rw [hrow, Nat.card_Ioc]

/-- A column right of the root has no point above row s = isqrt(n). -/
theorem card_filter_mul_le_of_isqrt_lt {i : Nat} (hi : isqrt n < i) :
    ((Finset.Ioc 0 (isqrt n)).filter fun j => i * j ≤ n).card = n / i := by
  have hcolumn : (Finset.Ioc 0 (isqrt n)).filter (fun j => i * j ≤ n) = Finset.Ioc 0 (n / i) := by
    have hroot : n / i ≤ isqrt n :=
      Nat.lt_succ_iff.1 <| (Nat.div_lt_iff_lt_mul (by omega)).2 <|
        (lt_isqrt_succ_mul_self n).trans_le (Nat.mul_le_mul_left _ hi)
    ext j
    rw [Finset.mem_filter, Finset.mem_Ioc, Finset.mem_Ioc, mul_comm, ← Nat.le_div_iff_mul_le (by omega)]
    omega
  rw [hcolumn, Nat.card_Ioc, Nat.sub_zero]

/-- The floor sum right of the root, its points counted by rows. -/
theorem sum_div_above_isqrt (n : Nat) :
    ∑ i ∈ Finset.Ioc (isqrt n) n, n / i = ∑ j ∈ Finset.Ioc 0 (isqrt n), (n / j - isqrt n) := by
  calc ∑ i ∈ Finset.Ioc (isqrt n) n, n / i
      = ∑ i ∈ Finset.Ioc (isqrt n) n, ((Finset.Ioc 0 (isqrt n)).filter fun j => i * j ≤ n).card :=
        Finset.sum_congr rfl fun i hi => (card_filter_mul_le_of_isqrt_lt (Finset.mem_Ioc.1 hi).1).symm
    _ = ∑ j ∈ Finset.Ioc 0 (isqrt n), ((Finset.Ioc (isqrt n) n).filter fun i => i * j ≤ n).card :=
        Finset.sum_card_bipartiteAbove_eq_sum_card_bipartiteBelow fun i j => i * j ≤ n
    _ = ∑ j ∈ Finset.Ioc 0 (isqrt n), (n / j - isqrt n) :=
        Finset.sum_congr rfl fun j hj => card_filter_mul_le _ (Finset.mem_Ioc.1 hj).1

/-- The floor sum over the first s = isqrt(n) terms alone (44_divsum.md R211). -/
theorem sum_div_add_isqrt_mul_self (n : Nat) :
    ∑ i ∈ Finset.Icc 1 n, n / i + isqrt n * isqrt n = 2 * ∑ i ∈ Finset.Icc 1 (isqrt n), n / i := by
  have hle : isqrt n ≤ n := (Nat.le_mul_self _).trans (isqrt_mul_self_le n)
  have hsplit := Finset.sum_Ioc_consecutive (fun i => n / i) (Nat.zero_le _) hle
  have hrows : ∑ j ∈ Finset.Ioc 0 (isqrt n), (n / j - isqrt n) + isqrt n * isqrt n
      = ∑ j ∈ Finset.Ioc 0 (isqrt n), n / j := by
    have hsquare : ∑ _j ∈ Finset.Ioc 0 (isqrt n), isqrt n = isqrt n * isqrt n := by simp
    rw [← hsquare, ← Finset.sum_add_distrib]
    refine Finset.sum_congr rfl fun j hj => Nat.sub_add_cancel ?_
    obtain ⟨hj, hjs⟩ := Finset.mem_Ioc.1 hj
    exact (Nat.le_div_iff_mul_le hj).2 ((Nat.mul_le_mul_left _ hjs).trans (isqrt_mul_self_le n))
  rw [sum_div_above_isqrt] at hsplit
  have hIcc (m : Nat) : Finset.Icc 1 m = Finset.Ioc 0 m := Finset.Icc_add_one_left_eq_Ioc 0 m
  rw [hIcc, hIcc]
  omega

/-! ### The computed divisor sum -/

theorem divisorSum_eq_hyperbola (n : Nat) :
    divisorSum n = 2 * ∑ i ∈ Finset.Icc 1 (isqrt n), n / i - isqrt n * isqrt n := by
  rw [divisorSum, sumFrom_eq, Nat.zero_add, ← Finset.Ico_add_one_right_eq_Icc, Finset.sum_Ico_eq_sum_range,
    Nat.add_sub_cancel]

theorem divisorSum_eq_sum_div (n : Nat) : divisorSum n = ∑ i ∈ Finset.Icc 1 n, n / i := by
  rw [divisorSum_eq_hyperbola, ← sum_div_add_isqrt_mul_self, Nat.add_sub_cancel]

/-- D(n) counts the divisors of 1 .. n (44_divsum.md R210). -/
theorem divisorSum_eq_sum_divisorCount (n : Nat) :
    divisorSum n = ∑ k ∈ Finset.Icc 1 n, ((Finset.Icc 1 k).filter fun j => k % j = 0).card := by
  rw [sum_divisorCount_eq_sum_div, divisorSum_eq_sum_div]

/-- The subtraction of R211 never goes below 0. -/
theorem divisorSum_add_isqrt_mul_self (n : Nat) :
    divisorSum n + isqrt n * isqrt n = 2 * ∑ i ∈ Finset.Icc 1 (isqrt n), n / i := by
  rw [divisorSum_eq_sum_div, sum_div_add_isqrt_mul_self]

/-! ### The check of DIVSUM (44_divsum.md R213) -/

theorem checkDivsum_of_neg (h : sval s.la0 < 0) : checkDivsum s = some (.negative, s.la0) := if_pos h

theorem checkDivsum_of_beyond (hwide : s.cfg.wide128 = false) (h : 2 ^ 57 < sval s.la0) :
    checkDivsum s = some (.range, s.la0) :=
  (if_neg (by omega)).trans (if_pos ⟨h, hwide⟩)

theorem checkDivsum_of_pass (h : 0 ≤ sval s.la0) (hceil : s.cfg.wide128 = true ∨ sval s.la0 ≤ 2 ^ 57) :
    checkDivsum s = none :=
  (if_neg (not_lt.2 h)).trans (if_neg fun ⟨habove, hnarrow⟩ => hceil.elim (by simp [hnarrow]) (not_le.2 habove))

end Sys2Proof.Machine

open Sys2Proof Sys2Proof.Machine

/-- Settles O25: by the hyperbola method. -/
theorem divisorSumIsExact : Obligations.DivisorSumIsExact := by
  intro n
  refine ⟨divisorSum_eq_sum_divisorCount n, divisorSum_eq_sum_div n, ?_⟩
  have hsum := divisorSum_add_isqrt_mul_self n
  zify at hsum
  exact eq_sub_of_add_eq hsum

/-- Settles O26: D(n) is below 2^69 for every non-negative n of the latch. -/
theorem divsumCompletes : Obligations.DivsumCompletes := by
  intro s hp hpos
  obtain ⟨-, -, -, hwide⟩ := ceilingsBoundTheResults
  have hbound : resultOf .divsum s < 2 ^ 69 := (hwide (opN s) (opN_lt s)).2
  obtain ⟨lo, hi, hexec, hres⟩ := exec_of_result_lt rfl hp (hbound.trans (by decide))
  refine ⟨lo, hi, hexec, ?_⟩
  rw [hres, ← sval_toNat_of_nonneg hpos]
  exact divisorSum_eq_sum_divisorCount (opN s)

/-- Settles O27: the three answers of the operand check. -/
theorem divsumOperandChecks : Obligations.DivsumOperandChecks := fun _ hp =>
  ⟨fun hneg => exec_of_check_fail rfl hp (checkDivsum_of_neg hneg),
    fun hwide habove => exec_of_check_fail rfl hp (checkDivsum_of_beyond hwide habove),
    fun hpos hceil => exec_of_check_pass rfl hp (checkDivsum_of_pass hpos hceil)⟩
end

section
/-!
PROOFS of the family 60_exceptions.md. A failed check ends any command with its report, and a failed access ends a
table command with BUS_ERROR. The fault matrix of R233 is read one command at a time: a "no" because a fault is a
report of the operand check or one of the two faults of the table sequence; a "yes" by a command just accepted at the
reset block, or one that the invariant has followed into the sequence.
-/

namespace Sys2Proof.Machine

variable {b : ElemWidth} {c : ErrCode} {i : Instr} {s t : State} {w : Word} {wide : Bool}

/-! ### The record of a fault -/

/-- Any command whose check reports a fault ends with it (60_exceptions.md R234). -/
theorem exec_of_checkOf_fail (hp : s.phase = .validate) (hc : checkOf i s = some (c, w)) :
    exec i s = .next (raiseFault c w s) := by
  cases hw : tableWidth i with
  | none => exact exec_of_check_fail hw hp hc
  | some b => exact exec_of_tableCheck_fail hw hp (checkOf_table hw ▸ hc)

/-- A failed write of step W1 or Wa (60_exceptions.md R236). -/
theorem exec_writeError {addr : Nat} (hw : tableWidth i = some b) (hp : s.phase = .exec) (hb : s.bus = .error)
    (hspace : inSpace b addr = true)
    (haddr : s.seq = .w1 ∧ addr = entryAddr b s 1 ∨ s.seq = .wa ∧ addr = entryAddr b s s.idx.toNat) :
    exec i s = .next (raiseFault .busError (BitVec.ofNat 64 addr) (spoilEntry b addr s)) := by
  rw [exec_table_of_exec_phase hw hp, tableStep]
  obtain ⟨hseq, rfl⟩ | ⟨hseq, rfl⟩ := haddr <;> rw [hseq]
  · exact portWrite_error hspace hb 1 seedWritten
  · exact portWrite_error hspace hb (entryValue s) entryWritten

/-- A failed read of step Ra (60_exceptions.md R236). -/
theorem exec_readError (hw : tableWidth i = some b) (hp : s.phase = .exec) (hb : s.bus = .error)
    (hspace : inSpace b (entryAddr b s (opM s % s.idx.toNat)) = true) (hseq : s.seq = .ra)
    (hn : s.idx.toNat ≤ opN s) (hr : opM s % s.idx.toNat ≠ 0) :
    exec i s = .next (raiseFault .busError (BitVec.ofNat 64 (entryAddr b s (opM s % s.idx.toNat))) s) := by
  rw [exec_table_of_exec_phase hw hp, tableStep, hseq]
  simp only [if_pos hn, stepRa, if_neg hr]
  exact portRead_error hspace hb entryRead

/-- An access inside the address space has an address of 64 bits (20_memory.md R67). -/
theorem toNat_ofNat_of_inSpace {addr : Nat} (h : inSpace b addr = true) : (BitVec.ofNat 64 addr).toNat = addr := by
  have hpos := b.bytes_pos
  have hend : addr + b.bytes ≤ 2 ^ 64 := of_decide_eq_true h
  exact (BitVec.toNat_ofNat addr 64).trans (Nat.mod_eq_of_lt (by omega))

/-- A failed write spoils its own B bytes alone (60_exceptions.md R236). -/
theorem readByte_spoilEntry_other {addr a : Nat} (ha : a < addr ∨ addr + b.bytes ≤ a) :
    (spoilEntry b addr s).mem.readByte a = s.mem.readByte a :=
  Memory.readByte_writeBytes_other _ (by simpa using ha)

/-! ### Where a fault comes from -/

/-- A step ends a command with a fault by a report of its check, or as a table command in its sequence with one of the
two faults of 42_invtab.md R162. -/
theorem fault_origin (hp : s.phase ≠ .idle) (he : s.errcode = .none) (h : exec i s = .next t) (hcode : t.errcode = c)
    (hc : c ≠ .none) :
    (∃ w, checkOf i s = some (c, w)) ∨ tableWidth i ≠ none ∧ (c = .noncoprime ∨ c = .busError) := by
  subst hcode
  cases exec_next h with
  | idle hidle => exact absurd hidle hp
  | invalid _ c w hcheck ht => exact .inl ⟨w, by rw [ht, hcheck]; rfl⟩
  | enter _ _ _ ht | start _ _ _ _ _ ht => exact absurd (ht ▸ he) hc
  | finish _ _ ht => exact absurd (ht ▸ rfl) hc
  | table _ b hw heff =>
    refine .inr ⟨by simp [hw], ?_⟩
    cases heff with
    | seed _ _ _ ht | read _ _ _ _ _ ht | write _ _ _ ht => exact absurd (ht ▸ he) hc
    | finish _ _ ht => exact absurd (ht ▸ rfl) hc
    | noncoprime _ _ _ ht => exact .inl (ht ▸ rfl)
    | seedError _ _ _ ht | readError _ _ _ _ _ ht | writeError _ _ _ ht => exact .inr (ht ▸ rfl)

/-- A command that touches no memory can end with a fault only by a report of its check. -/
theorem check_of_register_fault (hw : tableWidth i = none) (hp : s.phase ≠ .idle) (he : s.errcode = .none)
    (h : exec i s = .next t) (hcode : t.errcode = c) (hc : c ≠ .none) : ∃ w, checkOf i s = some (c, w) :=
  (fault_origin hp he h hcode hc).resolve_right fun ⟨htable, _⟩ => htable hw

theorem checkSqrt128_code (h : checkSqrt128 s = some (c, w)) : c = .unsupported ∧ s.cfg.wide128 = false := by
  unfold checkSqrt128 at h
  split at h <;> simp_all

/-- CIRCFULL, CIRCQUAD and DIVSUM have one pair of checks, with their own ceilings (43_circle.md R197, 44_divsum.md
R213). -/
theorem count_check_code (hi : i = .circfull ∨ i = .circquad ∨ i = .divsum) (h : checkOf i s = some (c, w)) :
    c = .negative ∨ c = .range ∧ s.cfg.wide128 = false := by
  obtain rfl | rfl | rfl := hi
  all_goals
    simp only [checkOf, checkCirc, checkDivsum] at h
    repeat' split at h
    all_goals simp_all

/-- The wide INVTAB64 has no RANGE: MMAX is then the largest signed word (42_invtab.md R161). -/
theorem narrow_of_mMax_lt (h : sval s.la1 > mMax b s.cfg.wide128) : b = .w4 ∨ s.cfg.wide128 = false := by
  cases b with
  | w4 => exact .inl rfl
  | w8 =>
    cases hwide : s.cfg.wide128 with
    | false => exact .inr rfl
    | true =>
      have := sval_range s.la1
      simp only [hwide, mMax] at h
      omega

theorem checkInvtab_code (h : checkInvtab b s = some (c, w)) :
    c = .negative ∨ c = .domain ∨ c = .align ∨ c = .addrWrap ∨ c = .range ∧ (b = .w4 ∨ s.cfg.wide128 = false) := by
  have hrange : sval s.la1 > mMax b s.cfg.wide128 → b = .w4 ∨ s.cfg.wide128 = false := narrow_of_mMax_lt
  unfold checkInvtab at h
  repeat' split at h
  all_goals simp_all

/-- The faults that a table command can end with (60_exceptions.md R233). -/
theorem table_fault_cases (hw : tableWidth i = some b) (hp : s.phase ≠ .idle) (he : s.errcode = .none)
    (h : exec i s = .next t) (hcode : t.errcode = c) (hc : c ≠ .none) :
    c ∈ [.negative, .domain, .align, .addrWrap, .noncoprime, .busError] ∨
      c = .range ∧ (b = .w4 ∨ s.cfg.wide128 = false) := by
  have hcases := (fault_origin hp he h hcode hc).imp
    (fun ⟨_, hcheck⟩ => checkInvtab_code ((checkOf_table hw).symm.trans hcheck)) And.right
  simp only [List.mem_cons, List.not_mem_nil]
  tauto

/-! ### A state that shows each fault -/

/-- A "yes" of R233: a running command in a state the invariant allows, with its word in the latch, ends with the
fault `c`. -/
def CanEndWith (i : Instr) (c : ErrCode) (wide : Bool) : Prop :=
  ∃ s t, BlockInv s ∧ decodeWord s.lop = .ok i ∧ s.cfg.wide128 = wide ∧ s.phase ≠ .idle ∧ s.errcode = .none ∧
    exec i s = .next t ∧ t.errcode = c

/-- The command just accepted at the reset block, with these operands, on a platform whose window lies at address 0
and that has ordinary memory elsewhere. -/
def issued (wide : Bool) (i : Instr) (reply : BusReply) (n m base : Word) : State :=
  accept (encode i) { State.reset with
    cfg := ⟨wide, 0, 0, [], []⟩, arg0 := n, arg1 := m, arg2 := base, bus := reply }

theorem Coherent.blockInv_of_irq (h : Coherent s) (hirq : IrqCoherent s) : BlockInv s :=
  ⟨h.status, hirq, h.memory, h.reset, h.engine, h.view⟩

theorem one_lt_mMax (b : ElemWidth) (wide : Bool) : 1 < mMax b wide := by
  cases b <;> cases wide <;> decide

section Issued

variable {reply : BusReply} {n m base : Word}

@[simp] theorem issued_la0 : (issued wide i reply n m base).la0 = n := rfl
@[simp] theorem issued_la1 : (issued wide i reply n m base).la1 = m := rfl
@[simp] theorem issued_la2 : (issued wide i reply n m base).la2 = base := rfl
@[simp] theorem issued_cfg : (issued wide i reply n m base).cfg = ⟨wide, 0, 0, [], []⟩ := rfl

theorem issued_coherent : Coherent (issued wide i reply n m base) where
  status := by simp [StatusCoherent, issued]
  memory := ⟨rfl, rfl⟩
  reset := resetCoherent_of_released rfl
  engine := (engineCoherent_validate_iff rfl).2 ⟨rfl, rfl⟩
  view := (viewCoherent_validate_iff rfl).2 rfl

/-- A report of the check of a command just accepted is a fault it can end with. -/
theorem canEndWith_of_check (n m base : Word) (hc : checkOf i (issued wide i .ok n m base) = some (c, w)) :
    CanEndWith i c wide :=
  ⟨_, _, issued_coherent.blockInv_of_irq rfl, decodeWord_encode i, rfl, by simp [issued], rfl,
    exec_of_checkOf_fail rfl hc, rfl⟩

theorem started_inSpace : inSpace b (entryAddr b (startTable (issued wide i reply 2 2 0x1000)) 1) = true := by
  cases b <;> rfl

end Issued

section Table

variable (hw : tableWidth i = some b)
include hw

/-- The faults of a table command's check but RANGE: n < 0, n = 0, a BASE that is no multiple of B, and a table of
n = 2 that starts 8 bytes below the top of the address space. -/
theorem canEndWith_table_check (hc : c ∈ [.negative, .domain, .align, .addrWrap]) : CanEndWith i c wide := by
  have hcheck : ∀ n m base {w}, checkInvtab b (issued wide i .ok n m base) = some (c, w) → CanEndWith i c wide :=
    fun n m base _ h => canEndWith_of_check n m base ((checkOf_table hw).trans h)
  simp only [List.mem_cons, List.not_mem_nil, or_false] at hc
  obtain rfl | rfl | rfl | rfl := hc
  · exact hcheck (-1) 0 0 (w := -1) rfl
  · exact hcheck 0 0 0 (w := 0) rfl
  · exact hcheck 1 2 1 (w := 1) (by cases b <;> simp [checkInvtab, sval, one_lt_mMax, ElemWidth.bytes])
  · exact hcheck 2 2 0xFFFFFFFFFFFFFFF8 (w := 0xFFFFFFFFFFFFFFF8)
      (by cases b <;> simp [checkInvtab, sval, one_lt_mMax, tableEnd, ElemWidth.bytes])

/-- RANGE, at the largest signed m (42_invtab.md R161). -/
theorem canEndWith_table_range (hmax : b = .w4 ∨ wide = false) : CanEndWith i .range wide := by
  refine canEndWith_of_check 1 0x7FFFFFFFFFFFFFFF 0 (w := 0x7FFFFFFFFFFFFFFF) ((checkOf_table hw).trans ?_)
  have hbeyond : (mMax b wide : Int) < 9223372036854775807 := by
    obtain rfl | rfl := hmax
    · cases wide <;> decide
    · cases b <;> decide
  simp [checkInvtab, sval, hbeyond]

/-- INVTAB with n = 2 and m = 2 at 0x1000 passes its checks and enters the sequence. -/
theorem started_coherent (wide : Bool) (reply : BusReply) :
    Coherent (startTable (issued wide i reply 2 2 0x1000)) := by
  have hcheck : checkInvtab b (issued wide i reply 2 2 0x1000) = none := by
    cases b <;> simp [checkInvtab, sval, one_lt_mMax, tableEnd, ElemWidth.bytes]
  have hplaced : tableRefusal b (issued wide i reply 2 2 0x1000) = none := by
    cases b <;> simp [tableRefusal, onWindow, onRegion, overlaps]
  exact (Advance.start b rfl ((checkOf_table hw).trans hcheck) hw hplaced).coherent (decodeWord_encode i)
    (by simp [issued]) rfl issued_coherent

/-- BUS_ERROR, at the write of step W1. -/
theorem canEndWith_busError (wide : Bool) : CanEndWith i .busError wide :=
  ⟨startTable (issued wide i .error 2 2 0x1000), _, (started_coherent hw wide .error).blockInv_of_irq rfl,
    decodeWord_encode i, rfl, by simp, rfl, exec_writeError hw rfl rfl started_inSpace (.inl ⟨rfl, rfl⟩), rfl⟩

/-- NONCOPRIME, at index 2 for m = 2, after step W1. -/
theorem canEndWith_noncoprime (wide : Bool) : CanEndWith i .noncoprime wide := by
  have hs := started_coherent hw wide .ok
  have hseeded := (Advance.seed b rfl hw rfl started_inSpace).coherent (decodeWord_encode i) (by simp) rfl hs
  have hn : (2 : Word).toNat ≤ (sval 2).toNat := by decide
  have hr : (sval 2).toNat % (2 : Word).toNat = 0 := by decide
  exact ⟨_, _, hseeded.blockInv_of_irq rfl, decodeWord_encode i, rfl, by simp, rfl,
    exec_noncoprime hw rfl rfl hn hr, rfl⟩

end Table

end Sys2Proof.Machine

open Sys2Proof Sys2Proof.Machine

/-- Settles O44: the check's report is the fault record. -/
theorem validateFaultRecord : Obligations.ValidateFaultRecord :=
  fun _ _ _ _ hp hc => exec_of_checkOf_fail hp hc

/-- Settles O37: each access of the sequence lies at an entry of the table, so inside the address space; a failed one
leaves the record, and in memory what a failed write spoils. -/
theorem busErrorEndsCommand : Obligations.BusErrorEndsCommand := by
  intro i b s hw hp hb hvalid addr haccess
  suffices h : inSpace b addr = true ∧ ∃ mem draws,
      exec i s = .next (raiseFault .busError (BitVec.ofNat 64 addr) { s with mem := mem, draws := draws }) ∧
      (s.seq = .ra → mem = s.mem) ∧
      ∀ a, (a < addr ∨ addr + b.bytes ≤ a) → mem.readByte a = s.mem.readByte a by
    obtain ⟨hspace, mem, draws, hexec, hread, hbytes⟩ := h
    exact ⟨_, hexec, rfl, rfl, toNat_ofNat_of_inSpace hspace, rfl, rfl, rfl, rfl, rfl, rfl, rfl, rfl, rfl,
      by simp [SameOutside], hread, hbytes⟩
  obtain ⟨hseq, rfl⟩ | ⟨hseq, hn, rfl⟩ | ⟨hseq, h1, hn, hr, rfl⟩ := haccess
  · rw [← entryAddr_one]
    have hspace := entryAddr_inSpace hvalid hvalid.one_le_opN
    exact ⟨hspace, _, _, exec_writeError hw hp hb hspace (.inl ⟨hseq, rfl⟩), by simp [hseq],
      fun _ => readByte_spoilEntry_other⟩
  · have hspace := entryAddr_inSpace hvalid hn
    exact ⟨hspace, _, _, exec_writeError hw hp hb hspace (.inr ⟨hseq, rfl⟩), by simp [hseq],
      fun _ => readByte_spoilEntry_other⟩
  · have hspace := entryAddr_inSpace hvalid ((Nat.mod_lt (opM s) h1).le.trans hn)
    exact ⟨hspace, _, _, exec_readError hw hp hb hspace hseq hn hr, fun _ => rfl, fun _ _ => rfl⟩

/-- Settles O45: command by command, which is column by column in R233. -/
theorem faultMatrix : Obligations.FaultMatrix := by
  refine ⟨fun i c wide hc => ⟨fun hyes => ?_, fun ⟨s, t, hwide, hp, he, hexec, hcode⟩ => ?_⟩,
    fun s r e hin hp hop => ⟨_, engineTurn_of_illegal r hin hp hop, rfl⟩⟩
  · have hneg : sval (-1) < 0 := by decide
    cases i with
    | sqrt64 => cases c <;> exact hyes.elim
    | sqrt128 =>
      cases c with
      | unsupported => exact hyes ▸ canEndWith_of_check 0 0 0 (checkOf_sqrt128_of_narrow rfl)
      | _ => exact hyes.elim
    | invtab32 =>
      cases c with
      | negative | domain | align | addrWrap => exact canEndWith_table_check rfl (by decide)
      | noncoprime => exact canEndWith_noncoprime rfl wide
      | busError => exact canEndWith_busError rfl wide
      | range => exact canEndWith_table_range rfl (.inl rfl)
      | _ => exact hyes.elim
    | invtab64 =>
      cases c with
      | negative | domain | align | addrWrap => exact canEndWith_table_check rfl (by decide)
      | noncoprime => exact canEndWith_noncoprime rfl wide
      | busError => exact canEndWith_busError rfl wide
      | range => exact canEndWith_table_range rfl (.inr hyes)
      | _ => exact hyes.elim
    | circfull | circquad =>
      cases c with
      | negative => exact canEndWith_of_check (-1) 0 0 (checkCirc_of_neg hneg)
      | range => exact hyes ▸ canEndWith_of_check 0x7FFFFFFFFFFFFFFF 0 0 (checkCirc_of_beyond rfl (by decide))
      | _ => exact hyes.elim
    | divsum =>
      cases c with
      | negative => exact canEndWith_of_check (-1) 0 0 (checkDivsum_of_neg hneg)
      | range => exact hyes ▸ canEndWith_of_check 0x7FFFFFFFFFFFFFFF 0 0 (checkDivsum_of_beyond rfl (by decide))
      | _ => exact hyes.elim
  · subst hwide
    cases i with
    | sqrt64 =>
      obtain ⟨w, hcheck⟩ := check_of_register_fault rfl hp he hexec hcode hc
      cases hcheck
    | sqrt128 =>
      obtain ⟨w, hcheck⟩ := check_of_register_fault rfl hp he hexec hcode hc
      obtain ⟨rfl, hnarrow⟩ := checkSqrt128_code hcheck
      exact hnarrow
    | circfull | circquad | divsum =>
      obtain ⟨w, hcheck⟩ := check_of_register_fault rfl hp he hexec hcode hc
      obtain rfl | ⟨rfl, hnarrow⟩ := count_check_code (by simp) hcheck
      · exact trivial
      · exact hnarrow
    | invtab32 =>
      have hcases := table_fault_cases rfl hp he hexec hcode hc
      cases c with
      | negative | domain | range | align | addrWrap | noncoprime | busError => exact trivial
      | none | illegalCmd | unsupported => simp at hcases
    | invtab64 =>
      have hcases := table_fault_cases rfl hp he hexec hcode hc
      cases c with
      | negative | domain | align | addrWrap | noncoprime | busError => exact trivial
      | range =>
        have hnarrow : s.cfg.wide128 = false := by simpa using hcases
        exact hnarrow
      | none | illegalCmd | unsupported => simp at hcases
end

section
/-!
PROOFS of the family 70_reset_and_hazards.md. A misplaced table is refused by the first of its placements that the
model's order names; reset leaves the block at its reset values and changes memory by at most the write that the table
sequence has next; the other agents' accesses, byte by byte, where the views of ViewCoherent are one outside the entries
written.
-/

namespace Sys2Proof.Machine

variable {b : ElemWidth} {i : Instr} {s t : State}

/-! ### The refused placements -/

section Placement

variable (hvalid : TableOperandsValid b s)
include hvalid

theorem onWindow_tableSpan_iff : onWindow s.cfg s.la2.toNat (tableEnd b s) = true ↔ SpanOnWindow b s :=
  onWindow_iff (base_le_tableEnd hvalid)

theorem onRegion_tableSpan_iff (regions : List Config.Region) :
    onRegion regions s.la2.toNat (tableEnd b s) = true ↔ SpanOnRegion regions b s :=
  onRegion_iff (base_le_tableEnd hvalid)

/-- The order in which a misplaced table is named (log entry 12). -/
theorem tableRefusal_of_window (hw : SpanOnWindow b s) : tableRefusal b s = some .tableOverWindow :=
  if_pos ((onWindow_tableSpan_iff hvalid).2 hw)

theorem tableRefusal_of_device (hd : SpanOnRegion s.cfg.devices b s) (hw : ¬ SpanOnWindow b s) :
    tableRefusal b s = some .tableOverDevice := by
  rw [tableRefusal, if_neg (mt (onWindow_tableSpan_iff hvalid).1 hw)]
  exact if_pos ((onRegion_tableSpan_iff hvalid _).2 hd)

theorem tableRefusal_of_unkept (hu : SpanOnRegion s.cfg.unkept b s) (hw : ¬ SpanOnWindow b s)
    (hd : ¬ SpanOnRegion s.cfg.devices b s) : tableRefusal b s = some .tableOverUnkept := by
  rw [tableRefusal, if_neg (mt (onWindow_tableSpan_iff hvalid).1 hw),
    if_neg (mt (onRegion_tableSpan_iff hvalid _).1 hd)]
  exact if_pos ((onRegion_tableSpan_iff hvalid _).2 hu)

/-- A table command with valid operands and a refused placement stops in its VALIDATE step (R281). -/
theorem exec_of_tableRefusal (hw : tableWidth i = some b) (hp : s.phase = .validate) {f : Refusal}
    (hf : tableRefusal b s = some f) : exec i s = .refused f := by
  simp only [exec_table hw, tableCommand, hp, validateInvtab, checkInvtab_eq_none.2 hvalid, hf]

end Placement

/-! ### Reset -/

theorem perform_resetAssert (s : State) : perform .resetAssert s = .next (assertReset s) := rfl

@[simp] theorem assertReset_inReset (s : State) : (assertReset s).inReset = true := rfl

@[simp] theorem assertReset_mem (s : State) : (assertReset s).mem = (landInFlight s).mem := rfl

@[simp] theorem assertReset_cfg (s : State) : (assertReset s).cfg = s.cfg := by
  obtain ⟨m, d, hland, -⟩ := landInFlight_frame s
  rw [assertReset, hland]
  rfl

/-- Every register and hidden state is overwritten, whatever the write in flight did (R271). -/
theorem blockAtReset_assertReset (s : State) : BlockAtReset (assertReset s) := by
  simp [BlockAtReset, assertReset]

/-- The write the table sequence has next, step by step (42_invtab.md R162). -/
theorem pendingWrite_eq_some_iff {addr v : Nat} : pendingWrite b s = some (addr, v) ↔
    (s.seq = .w1 ∧ addr = entryAddr b s 1 ∧ v = 1) ∨
    (s.seq = .wa ∧ addr = entryAddr b s s.idx.toNat ∧ v = entryValue s) := by
  unfold pendingWrite
  cases s.seq <;> simp [eq_comm]

/-- Reset changes memory by nothing or by the write in flight, whole (R272). -/
theorem assertReset_mem_cases (s : State) : (assertReset s).mem = s.mem ∨
    ∃ b addr v, runningTable s = some b ∧ pendingWrite b s = some (addr, v) ∧
      (assertReset s).mem = s.mem.writeLE addr b.bytes v := by
  rw [assertReset_mem]
  obtain ⟨-, hland⟩ | ⟨b, addr, v, hflight, hland | hland⟩ := landInFlight_cases s
  · exact .inl (by rw [hland])
  · obtain ⟨hrun, hpending, -⟩ := inFlightWrite_some hflight
    exact .inr ⟨b, addr, v, hrun, hpending, by rw [hland]; rfl⟩
  · exact .inl (by rw [hland])

theorem engineTurn_of_inReset (r : BusReply) (hin : s.inReset = true) : engineTurn r s = .next s := if_pos hin

theorem hostAccess_of_inReset {width off : Nat} {effect : Slot → State → State} (hin : s.inReset = true) :
    hostAccess width off effect s = .refused .accessDuringReset := if_pos hin

/-! ### What another agent reads -/

theorem agentByte_of_no_table (hrun : runningTable s = none) (a : Nat) : agentByte s a = s.mem.readByte a := by
  simp only [agentByte, hrun]

/-- A byte of an entry whose write the agent does not see is that of memory without the command's writes; every other
byte is memory's (R276, 20_memory.md R69). -/
theorem agentByte_of_table (hrun : runningTable s = some b) (a : Nat) : agentByte s a =
    if s.la2.toNat + b.bytes ≤ a ∧ (a : Int) ≤ tableEnd b s ∧
        Config.freeSeen s.draws ((a - s.la2.toNat) / b.bytes) = false
    then s.memOld.readByte a else s.mem.readByte a := by
  simp only [agentByte, hrun, entryAddr_one, ← and_assoc]
  by_cases hspan : s.la2.toNat + b.bytes ≤ a ∧ (a : Int) ≤ tableEnd b s
  · cases Config.freeSeen s.draws ((a - s.la2.toNat) / b.bytes) <;> simp [hspan]
  · simp [hspan]

/-- Where the two views agree, seen or not makes no difference. -/
theorem agentByte_of_equal_bytes {a : Nat} (heq : s.memOld.readByte a = s.mem.readByte a) :
    agentByte s a = s.mem.readByte a := by
  cases hrun : runningTable s with
  | none => exact agentByte_of_no_table hrun a
  | some b => rw [agentByte_of_table hrun, heq, ite_self]

/-- Outside the entries 1 .. PROGRESS no write has been issued (R276). -/
theorem ViewCoherent.agentByte_outside_entries (hs : ViewCoherent s) (hrun : runningTable s = some b) {a : Nat}
    (ha : a < s.la2.toNat + b.bytes ∨ s.la2.toNat + (s.progress.toNat + 1) * b.bytes ≤ a) :
    agentByte s a = s.mem.readByte a := by
  obtain ⟨hp, i, hop, hw⟩ := runningTable_some hrun
  exact agentByte_of_equal_bytes ((viewCoherent_table_iff hp hop hw).1 hs a ha)

theorem agentRead_getElem? {addr : Word} {len k : Nat} (h : agentRead addr len s = .next t) (hk : k < len) :
    t.agentData[k]? = some (agentByte s (addr.toNat + k)) := by
  obtain ⟨-, rfl⟩ := agentRead_next h
  simp [hk]

end Sys2Proof.Machine

open Sys2Proof Sys2Proof.Machine

/-- Settles O31: each clause is one branch of the order of the placements. -/
theorem tableOutsideOrdinaryMemoryIsRefused : Obligations.TableOutsideOrdinaryMemoryIsRefused :=
  fun _ _ _ hw hp hvalid => ⟨
    fun hwin => exec_of_tableRefusal hvalid hw hp (tableRefusal_of_window hvalid hwin),
    fun hdev hwin => exec_of_tableRefusal hvalid hw hp (tableRefusal_of_device hvalid hdev hwin),
    fun hun hwin hdev => exec_of_tableRefusal hvalid hw hp (tableRefusal_of_unkept hvalid hun hwin hdev)⟩

/-- Settles O56: the write in flight is the pending write of the running table, so it is that of step W1 or Wa. -/
theorem resetKeepsMemory : Obligations.ResetKeepsMemory := by
  intro s t hreset
  cases hreset
  obtain hmem | ⟨b, addr, v, hrun, hpending, hmem⟩ := assertReset_mem_cases s
  · exact .inl fun a => by rw [hmem]
  · obtain ⟨hp, i, hop, hw⟩ := runningTable_some hrun
    refine .inr ⟨i, b, hp, hop, hw, ?_⟩
    obtain ⟨hseq, rfl, rfl⟩ | ⟨hseq, rfl, rfl⟩ := pendingWrite_eq_some_iff.1 hpending
    · exact .inl ⟨hseq, hmem⟩
    · exact .inr ⟨hseq, hmem⟩

/-- Settles O59: the set is what the draw of this read decides. -/
theorem agentReadSeesSubsetOfWrites : Obligations.AgentReadSeesSubsetOfWrites := by
  intro s t addr len hread
  have hbyte : ∀ {k}, k < len → t.agentData[k]? = some (agentByte s (addr.toNat + k)) := agentRead_getElem? hread
  obtain ⟨-, ht⟩ := agentRead_next hread
  refine ⟨by rw [ht], by rw [ht]; simp, fun hrun => ?_, fun b hrun => ⟨Config.freeSeen s.draws, fun k hk => ⟨?_, ?_⟩⟩⟩
  · simp only [ht, agentByte_of_no_table hrun, Memory.readBytes]
  · rw [hbyte hk, agentByte_of_table hrun, tableEnd, Nat.cast_add]
  · exact fun hs hout => by rw [hbyte hk, hs.coherent.view.agentByte_outside_entries hrun hout]

/-- Settles O60: the same bytes written to memory and to its view without the command's writes. -/
theorem agentWriteIsOneInterleaving : Obligations.AgentWriteIsOneInterleaving := by
  intro s t addr bytes hmem hold hwrite
  obtain ⟨hspace, rfl⟩ := agentWrite_next hwrite
  exact ⟨fun k hk => ⟨Memory.readByte_writeBytes_in hmem hspace k hk, Memory.readByte_writeBytes_in hold hspace k hk⟩,
    fun a ha => ⟨s.mem.readByte_writeBytes_other ha, s.memOld.readByte_writeBytes_other ha⟩, rfl⟩

/-- Settles O55: reset is total, and its one state is at the reset values with the parameters kept. -/
theorem resetReachesTheResetState : Obligations.ResetReachesTheResetState := fun s =>
  ⟨assertReset s, perform_resetAssert s, blockAtReset_assertReset s, assertReset_inReset s, assertReset_cfg s⟩

/-- Settles O57: the engine's turn and every host access ask for reset first. -/
theorem assertedResetHoldsTheBlock : Obligations.AssertedResetHoldsTheBlock := fun _ hin =>
  ⟨fun r => engineTurn_of_inReset r hin, fun _ _ => hostAccess_of_inReset hin, fun _ _ _ => hostAccess_of_inReset hin⟩
end
